-- ==== Sys2Proof/Word.lean ====
section
/-! DEFINITION. The words of RBC-FCR: widths only (`00_scope.md` R5, R6). -/

namespace Sys2Proof

/-- One queue element, one register of the 8-bit kind, one byte of STORE (R5 `DATA_W`, `LEN_W`). -/
abbrev Byte := BitVec 8

/-- An address of the STORE space (R5 `STORE_AW`). -/
abbrev Addr := BitVec 16

/-- A command word (R5 `CMD_W`). -/
abbrev CmdWord := BitVec 32

/-- A response word (R5 `RSP_W`). -/
abbrev RspWord := BitVec 16

end Sys2Proof
end

