-- ==== Sys2Proof/Syntax.lean ====
section
/-! DEFINITION. The twelve commands of RBC-FCR (`30_encoding.md` R100), one constructor for each row of
`opcode_table.json`. Every operand is an unsigned field of the width the encoding gives it (R101). -/

namespace Sys2Proof

/-- A command: the "instruction" of this hardware. -/
inductive Instr where
  /-- `CONSTRUCT store, capacity` (R131). -/
  | construct (store : Addr) (capacity : Byte)
  /-- `PUSH_BACK data` (R132). -/
  | pushBack (data : Byte)
  /-- `PUSH_FRONT data` (R133). -/
  | pushFront (data : Byte)
  /-- `POP_BACK` (R134). -/
  | popBack
  /-- `POP_FRONT` (R135). -/
  | popFront
  /-- `IS_FULL` (R136). -/
  | isFull
  /-- `IS_EMPTY` (R137). -/
  | isEmpty
  /-- `PEEK_FRONT` (R138). -/
  | peekFront
  /-- `PEEK_BACK` (R139). -/
  | peekBack
  /-- `RX_CONFIG threshold, delimiter` (R170). -/
  | rxConfig (threshold delimiter : Byte)
  /-- `RX_START` (R172). -/
  | rxStart
  /-- `RDREG n` (R176). -/
  | rdreg (n : Byte)
deriving DecidableEq, Repr

/-- Why a word is no command (R103). Both reasons get the same answer, so the name is the model's own
and nothing observes it (log 16). -/
inductive Illegal where
  /-- `op` is 0x0, 0xD, 0xE or 0xF. -/
  | reservedOpcode
  /-- A defined `op`, and a must-be-zero bit that is 1 (R102). -/
  | mustBeZero
deriving DecidableEq, Repr

/-- What a decoder reads from a word: "every 32-bit word is one of the twelve commands or illegal" (R103). -/
inductive Decoded where
  | legal (i : Instr)
  | illegal (why : Illegal)
deriving DecidableEq, Repr

end Sys2Proof
end

