-- ==== Sys2Proof/WellFormed.lean ====
section
/-! DEFINITION. When a command word is well formed: it selects a row of the table of `30_encoding.md` R100
by that row's mask and match (R102). Written from the table, apart from the decoder, which is written from
the fields of R97. A term of `Instr` needs no check: each of its fields is a word of exactly the width of
the operand field, and every value of an operand field is legal (R101). -/

namespace Sys2Proof

/-- One row of the table of R100: a word `w` selects it when `(w and mask) == match`. -/
structure CommandRow where
  mnemonic : String
  pattern : CmdWord
  mask : CmdWord
deriving DecidableEq, Repr

/-- The rows of R100, in the table's order. -/
def commandRows : List CommandRow :=
  [ ⟨"CONSTRUCT",  0x10000000#32, 0xFF000000#32⟩,
    ⟨"PUSH_BACK",  0x20000000#32, 0xFFFFFF00#32⟩,
    ⟨"PUSH_FRONT", 0x30000000#32, 0xFFFFFF00#32⟩,
    ⟨"POP_BACK",   0x40000000#32, 0xFFFFFFFF#32⟩,
    ⟨"POP_FRONT",  0x50000000#32, 0xFFFFFFFF#32⟩,
    ⟨"IS_FULL",    0x60000000#32, 0xFFFFFFFF#32⟩,
    ⟨"IS_EMPTY",   0x70000000#32, 0xFFFFFFFF#32⟩,
    ⟨"PEEK_FRONT", 0x80000000#32, 0xFFFFFFFF#32⟩,
    ⟨"PEEK_BACK",  0x90000000#32, 0xFFFFFFFF#32⟩,
    ⟨"RX_CONFIG",  0xA0000000#32, 0xFFFF0000#32⟩,
    ⟨"RX_START",   0xB0000000#32, 0xFFFFFFFF#32⟩,
    ⟨"RDREG",      0xC0000000#32, 0xFFFFFF00#32⟩ ]

/-- The word selects the row (R102). -/
def CommandRow.selects (r : CommandRow) (w : CmdWord) : Bool :=
  (w &&& r.mask) == r.pattern

/-- The word is one of the twelve commands: it selects a row. -/
def wellFormedWord (w : CmdWord) : Bool :=
  commandRows.any (fun r => r.selects w)

/-- The mnemonic of each command (R100), the name of its row. -/
def Instr.mnemonic : Instr → String
  | .construct _ _ => "CONSTRUCT"
  | .pushBack _ => "PUSH_BACK"
  | .pushFront _ => "PUSH_FRONT"
  | .popBack => "POP_BACK"
  | .popFront => "POP_FRONT"
  | .isFull => "IS_FULL"
  | .isEmpty => "IS_EMPTY"
  | .peekFront => "PEEK_FRONT"
  | .peekBack => "PEEK_BACK"
  | .rxConfig _ _ => "RX_CONFIG"
  | .rxStart => "RX_START"
  | .rdreg _ => "RDREG"

end Sys2Proof
end

