-- ==== Sys2Proof/Decode.lean ====
section
/-! DEFINITION. Decoding and encoding of a command word, from the fields of `30_encoding.md` R97 and the
operand table under it. The decoder is total (R103). -/

namespace Sys2Proof

/-- `op`, bits 31:28 (R97). -/
def opField (w : CmdWord) : BitVec 4 := w.extractLsb' 28 4

/-- `z`, bits 27:24, must be zero in every command (R97, R102). -/
def zField (w : CmdWord) : BitVec 4 := w.extractLsb' 24 4

/-- `a`, operand A, bits 23:8 (R97). -/
def aField (w : CmdWord) : BitVec 16 := w.extractLsb' 8 16

/-- `b`, operand B, bits 7:0 (R97). -/
def bField (w : CmdWord) : Byte := w.extractLsb' 0 8

/-- The upper part of operand A, bits 23:16 (R97). -/
def aHigh (w : CmdWord) : Byte := w.extractLsb' 16 8

/-- The lower part of operand A, bits 15:8 (R97). -/
def aLow (w : CmdWord) : Byte := w.extractLsb' 8 8

/-- The command, if the must-be-zero parts of its word are zero (R102). -/
def legalIf (zero : Bool) (i : Instr) : Decoded :=
  if zero then .legal i else .illegal .mustBeZero

/-- The command a word stands for, or why it is illegal (R97, R100 to R103). `RDREG` with a reserved
register number is a legal word (R104). -/
def decode (w : CmdWord) : Decoded :=
  match (opField w).toNat with
  | 0x1 => legalIf (zField w == 0#4) (.construct (aField w) (bField w))
  | 0x2 => legalIf (zField w == 0#4 && aField w == 0#16) (.pushBack (bField w))
  | 0x3 => legalIf (zField w == 0#4 && aField w == 0#16) (.pushFront (bField w))
  | 0x4 => legalIf (zField w == 0#4 && aField w == 0#16 && bField w == 0#8) .popBack
  | 0x5 => legalIf (zField w == 0#4 && aField w == 0#16 && bField w == 0#8) .popFront
  | 0x6 => legalIf (zField w == 0#4 && aField w == 0#16 && bField w == 0#8) .isFull
  | 0x7 => legalIf (zField w == 0#4 && aField w == 0#16 && bField w == 0#8) .isEmpty
  | 0x8 => legalIf (zField w == 0#4 && aField w == 0#16 && bField w == 0#8) .peekFront
  | 0x9 => legalIf (zField w == 0#4 && aField w == 0#16 && bField w == 0#8) .peekBack
  | 0xA => legalIf (zField w == 0#4 && aHigh w == 0#8) (.rxConfig (aLow w) (bField w))
  | 0xB => legalIf (zField w == 0#4 && aField w == 0#16 && bField w == 0#8) .rxStart
  | 0xC => legalIf (zField w == 0#4 && aField w == 0#16) (.rdreg (bField w))
  | _ => .illegal .reservedOpcode

/-- A word from its three fields, `z` zero (R97). -/
def cmdWord (op : BitVec 4) (a : BitVec 16) (b : Byte) : CmdWord :=
  op ++ 0#4 ++ a ++ b

/-- The word of a command (R97, R100). -/
def encode : Instr → CmdWord
  | .construct store capacity => cmdWord 0x1#4 store capacity
  | .pushBack data => cmdWord 0x2#4 0#16 data
  | .pushFront data => cmdWord 0x3#4 0#16 data
  | .popBack => cmdWord 0x4#4 0#16 0#8
  | .popFront => cmdWord 0x5#4 0#16 0#8
  | .isFull => cmdWord 0x6#4 0#16 0#8
  | .isEmpty => cmdWord 0x7#4 0#16 0#8
  | .peekFront => cmdWord 0x8#4 0#16 0#8
  | .peekBack => cmdWord 0x9#4 0#16 0#8
  | .rxConfig threshold delimiter => cmdWord 0xA#4 (0#8 ++ threshold) delimiter
  | .rxStart => cmdWord 0xB#4 0#16 0#8
  | .rdreg n => cmdWord 0xC#4 0#16 n

/-- A command is one 32-bit word on its port (R97, R106): bits above the `nbits` given are zero. -/
def tableWord (nbits w : Nat) : CmdWord := BitVec.ofNat 32 (w % 2 ^ nbits)

/-- The command the decoder reads from the bits of a row of `opcode_table.json`. -/
def decodeTableWord (nbits w : Nat) : Option Instr :=
  match decode (tableWord nbits w) with
  | .legal i => some i
  | .illegal _ => none

end Sys2Proof
end

