-- ==== Sys2Proof/Config.lean ====
section
/-! DEFINITION. The open parameters of the hardware (`00_scope.md` R5) and the free values
(`93_implementation_defined.md` U1, U12). -/

namespace Sys2Proof

/-- `FAULT_POLICY` (R5, D15): whether `RX_START` is accepted in state Faulted. -/
inductive FaultPolicy where
  | halt
  | restartable
deriving DecidableEq, Repr

/-- The parameters R5 marks OPEN. They are constant in every run; a statement about every state is a
statement about every value of them. -/
structure Config where
  resumeCode : Byte
  pauseCode : Byte
  faultPolicy : FaultPolicy
deriving DecidableEq, Repr

/-- The defaults of R5: `RESUME_CODE` 0x11, `PAUSE_CODE` 0x13, `FAULT_POLICY` Halt. -/
def Config.default : Config :=
  { resumeCode := 0x11#8, pauseCode := 0x13#8, faultPolicy := .halt }

/-- `any8` (R7, U1): the n-th value drawn. FREE VALUE, DESIGN CHOICE (log 2): nothing can evaluate it. -/
opaque Config.any8 : Nat → Byte

/-- What a STORE address holds at power-on (U12: any value per address, fixed until written).
FREE VALUE, DESIGN CHOICE (log 3). -/
opaque Config.powerOnByte : Addr → Byte

/-- What an 8-bit register takes where the rules' arithmetic has no value in its range: `x mod 0`, and a
sum of 256 or more. R6 and R140 show that no run needs it. FREE VALUE, DESIGN CHOICE (log 5). -/
opaque Config.offRange : Nat → Byte

end Sys2Proof
end

