-- ==== Sys2Proof/Machine/Operands.lean ====
section
/-! DEFINITION. The index and address arithmetic every command uses: register values, advance and retreat
(`40_ringbuffer_ops.md` R140, R141, R143) and the one addressing mode (`20_memory.md` R63). Sums are taken
over the natural numbers (`00_scope.md` R6). -/

namespace Sys2Proof.Machine

open Sys2Proof

/-- The value written to an 8-bit register. R6 and R141 show that a run only writes values below 256;
for another the rules give none (`Config.offRange`, log 5). -/
def toReg8 (n : Nat) : Byte :=
  if n < 256 then BitVec.ofNat 8 n else Config.offRange n

/-- `n mod CAPACITY` as a register value (R140). R6 gives `mod` a value only for a modulus above 0, and a
constructed ring buffer has one (R35 INV1); for `CAPACITY == 0` there is none (`Config.offRange`, log 5). -/
def modCapacity (n : Nat) (capacity : Byte) : Byte :=
  if capacity = 0#8 then Config.offRange n else toReg8 (n % capacity.toNat)

/-- `advance(i) = (i + 1) mod c` (R140). -/
def advance (capacity i : Byte) : Byte :=
  modCapacity (i.toNat + 1) capacity

/-- `retreat(i) = (i + c - 1) mod c` (R140); the sum needs 9 bits (R143). -/
def retreat (capacity i : Byte) : Byte :=
  modCapacity (i.toNat + capacity.toNat - 1) capacity

/-- `slot(i) = (STORE_BASE + i) mod 2^16` (R63); a region may wrap past 0xFFFF (R71). -/
def slot (storeBase : Addr) (i : Byte) : Addr :=
  BitVec.ofNat 16 ((storeBase.toNat + i.toNat) % 2 ^ 16)

/-- The address is one of `slot(0) .. slot(CAPACITY-1)` (R61), also where the region wraps (R71). -/
def isSlot (storeBase : Addr) (capacity : Byte) (a : Addr) : Bool :=
  decide ((a - storeBase).toNat < capacity.toNat)

end Sys2Proof.Machine
end

