-- ==== Sys2Proof/Machine/State.lean ====
section
/-! DEFINITION. The state of RBC-FCR (`10_state.md` R20), the environment's side of its ports
(`30_encoding.md` R90, `00_scope.md` R9) and the observables of a run (R10). Plain data. -/

namespace Sys2Proof.Machine

open Sys2Proof

/-- `STATE` (R23), the four states of the receiver. -/
inductive RxState where
  | idle
  | receiving
  | completed
  | faulted
deriving DecidableEq, Repr

/-- `PHASE` (R33), which step of a session the sequencer waits for. -/
inductive Phase where
  | none
  | resume
  | byte
  | pause
deriving DecidableEq, Repr

/-- The status codes of a response (R99). -/
inductive Status where
  | ok
  | nullBackingStore
  | zeroCapacity
  | full
  | empty
  | notConstructed
  | badThreshold
  | halted
  | badRegister
  | receiveFault
  | illegalCommand
deriving DecidableEq, Repr

/-- One item of the byte source: a byte and its three diagnostics (R60, R66). -/
structure SrcItem where
  data : Byte
  perr : Bool
  ferr : Bool
  oerr : Bool
deriving DecidableEq, Repr

/-- One access on the store port (R95). -/
inductive StoreAccess where
  /-- `st_re = 1` at the address, and the byte `st_rdata` returned. -/
  | read (addr : Addr) (value : Byte)
  /-- `st_we = 1` at the address, with `st_wdata`. -/
  | write (addr : Addr) (value : Byte)
deriving DecidableEq, Repr

/-- One entry of the schedule: what the environment does before the block moves again (R9; log 1). -/
inductive EnvMove where
  /-- Nothing: a clock edge, the block takes its step with the pins as they stand. -/
  | clock
  /-- RESET drives `rst`. -/
  | setRst (level : Bool)
  /-- SINK drives `snk_ready`. -/
  | setSinkReady (level : Bool)
  /-- HOST offers one more command word (`cmd_valid`, `cmd_word`). -/
  | offerCommand (word : CmdWord)
  /-- SOURCE offers one more item (`src_valid`, `src_data` and the three flags). -/
  | offerItem (item : SrcItem)
  /-- HOST writes one byte of the STORE memory it owns, outside any command (R61, R62, R250). -/
  | hostWrite (addr : Addr) (value : Byte)
deriving DecidableEq, Repr

/-- The bytes of STORE that have been written: address and byte, addresses strictly rising. -/
abbrev Memory := List Host.Cell

/-- The whole machine. The first eleven fields and `store` are the state of R20; `cfg` is the constant
parameters of R5; the others are the environment's side of the ports, the observables (R10) and the model's
records. -/
structure State where
  /-- `CAPACITY` (R22). -/
  capacity : Byte
  /-- `LENGTH` (R24). -/
  length : Byte
  /-- `FRONT` (R25). -/
  front : Byte
  /-- `BACK` (R26). -/
  back : Byte
  /-- `STORE_BASE` (R27). -/
  storeBase : Addr
  /-- `CONSTRUCTED` (R28). -/
  constructed : Bool
  /-- `THRESHOLD` (R29). -/
  threshold : Byte
  /-- `DELIM` (R30). -/
  delim : Byte
  /-- `STATE` (R23). -/
  rxState : RxState
  /-- `FAULT` (R31): bit 3 `BF`, bit 2 `OE`, bit 1 `FE`, bit 0 `PE`. -/
  fault : BitVec 4
  /-- `PHASE` (R33). -/
  phase : Phase
  /-- The STORE memory (R60 to R62), outside the block. -/
  store : Memory
  /-- The parameters of R5. No step changes them. -/
  cfg : Config
  /-- The input pin `rst` (R90). -/
  rst : Bool
  /-- The input pin `snk_ready` (R90, R93). -/
  sinkReady : Bool
  /-- The command words HOST offers and the block has not taken, the next one first (R90, R91). -/
  commands : List CmdWord
  /-- The items SOURCE offers and the block has not taken, the next one first (R66, R92). -/
  source : List SrcItem
  /-- The schedule: which agent moves next (R9; log 1). -/
  moves : List EnvMove
  /-- The response words presented so far, oldest first (R10, R98). -/
  responses : List RspWord
  /-- The sink trace, oldest first (R10, R67). -/
  sink : List Byte
  /-- How many source items the block has taken (R10). -/
  taken : Nat
  /-- The accesses made on the store port, oldest first (R64, R95). -/
  accesses : List StoreAccess
  /-- How many free values `any8` have been drawn (R7, U1; log 2). -/
  draws : Nat
  /-- The slots that pushes have written since the last successful `CONSTRUCT`, each with the byte the latest
  push wrote in it: the record INV5 of R35 speaks of (log 21). -/
  pushed : Memory
  /-- HOST has kept R250: it has written no byte of the borrowed region since the last successful `CONSTRUCT`
  or reset (log 21). -/
  hostKept : Bool
deriving DecidableEq, Repr

/-- Why the machine stops with a fault: never. No rule of the spec stops the block ("A run has no
architected end: there is no halt command", R10; a session that waits for ever is not a fault, U10); the
receive faults of R215 are next states. So no constructor, and nobody raises one (log 18). -/
inductive Fault where
deriving DecidableEq, Repr

/-- Why an instruction has no meaning. -/
inductive Refusal where
  /-- Raised only by an arm of `exec` whose instruction has no meaning in the model; no arm is left so. Safe. -/
  | notModelled (mnemonic : String)
deriving DecidableEq, Repr

/-- The machine right after reset: every register at its value of R36 (R240), the parameters at the
defaults of R5, no byte of STORE written (U12), and, DESIGN CHOICE (log 6, log 14, log 21), an environment
that offers nothing, empty traces and nothing recorded. -/
def State.reset : State :=
  { capacity := 0x00#8
    length := 0x00#8
    front := 0x00#8
    back := 0x00#8
    storeBase := 0x0000#16
    constructed := false
    threshold := 0x00#8
    delim := 0x00#8
    rxState := .idle
    fault := 0b0000#4
    phase := .none
    store := []
    cfg := Config.default
    rst := false
    sinkReady := false
    commands := []
    source := []
    moves := []
    responses := []
    sink := []
    taken := 0
    accesses := []
    draws := 0
    pushed := []
    hostKept := true }

end Sys2Proof.Machine
end

