-- ==== Sys2Proof/Machine/Ops.lean ====
section
/-! DEFINITION. The shared operations: the STORE memory, the store port, the sink, the response, the free
value `any8` (the primitives of `00_scope.md` R7), the slot operations of the ring buffer, the entry of a
receive fault and the two ways out of Faulted. -/

namespace Sys2Proof.Machine

open Sys2Proof

/-! ### The STORE memory (R60 to R62) -/

/-- The byte written at an address, if one has been. -/
def Memory.get? (a : Nat) : Memory → Option Byte
  | [] => none
  | (b, v) :: m => if a = b then some v else Memory.get? a m

/-- The memory after a byte is written: the list stays sorted, with one entry an address. -/
def Memory.set (a : Nat) (v : Byte) : Memory → Memory
  | [] => [(a, v)]
  | (b, w) :: m =>
    if a < b then (a, v) :: (b, w) :: m
    else if a = b then (a, v) :: m
    else (b, w) :: Memory.set a v m

/-- The addresses rise strictly from `low` on and lie in the 16-bit space (R60). -/
def Memory.sortedFrom (low : Nat) : Memory → Bool
  | [] => true
  | (a, _) :: m => decide (low ≤ a) && decide (a < 2 ^ 16) && Memory.sortedFrom (a + 1) m

/-- The canonical form. An unlisted address holds no written value, so no entry can repeat it. -/
def Memory.wf (m : Memory) : Bool := Memory.sortedFrom 0 m

/-- What a STORE address reads as: the latest byte written to it by the block or by HOST (R62), else its
power-on byte, any value, fixed until written (U12; log 3). -/
def Memory.read (m : Memory) (a : Addr) : Byte :=
  match Memory.get? a.toNat m with
  | some v => v
  | none => Config.powerOnByte a

/-- `MemRead(a, 1)`: the byte, and the access on the store port (R62, R95). -/
def memRead (a : Addr) (s : State) : Byte × State :=
  (Memory.read s.store a, { s with accesses := s.accesses ++ [.read a (Memory.read s.store a)] })

/-- `MemWrite(a, 1, v)`: the byte written, and the access on the store port (R62, R95). -/
def memWrite (a : Addr) (v : Byte) (s : State) : State :=
  { s with store := Memory.set a.toNat v s.store, accesses := s.accesses ++ [.write a v] }

/-! ### The response (R98, R99, R109) -/

/-- The number of a status (R99). -/
def statusCode : Status → BitVec 4
  | .ok => 0x0#4
  | .nullBackingStore => 0x1#4
  | .zeroCapacity => 0x2#4
  | .full => 0x3#4
  | .empty => 0x4#4
  | .notConstructed => 0x5#4
  | .badThreshold => 0x6#4
  | .halted => 0x7#4
  | .badRegister => 0x8#4
  | .receiveFault => 0x9#4
  | .illegalCommand => 0xF#4

/-- The response word `{st, 0b0000, d}` (R98). -/
def responseWord (st : Status) (d : Byte) : RspWord :=
  statusCode st ++ 0b0000#4 ++ d

/-- `respond(st, d)` (R98): the word is presented, and HOST takes it (R256; log 8). -/
def respond (st : Status) (d : Byte) (s : State) : State :=
  { s with responses := s.responses ++ [responseWord st d] }

/-- `respond(st, any8)` (R109, U1): the data is a free value, new at each use (log 2). -/
def respondAny8 (st : Status) (s : State) : State :=
  respond st (Config.any8 s.draws) { s with draws := s.draws + 1 }

/-- The answer to an illegal word (R103): `respond(IllegalCommand, 0x00)` and nothing else. -/
def answerIllegal (s : State) : State :=
  respond .illegalCommand 0x00#8 s

/-! ### The byte sink (R67) -/

/-- `SnkWrite(b)`: the byte is appended to the sink trace. -/
def snkWrite (b : Byte) (s : State) : State :=
  { s with sink := s.sink ++ [b] }

/-! ### The slots of the ring buffer (R132 to R135) -/

/-- The one STORE write of a push (R64), and the model's record of it (R35 INV5; log 21). -/
def pushByte (a : Addr) (data : Byte) (s : State) : State :=
  { memWrite a data s with pushed := Memory.set a.toNat data s.pushed }

/-- The lines of a push at the back: write at the old `BACK`, then advance it, then count (R132). -/
def placeBack (data : Byte) (s : State) : State :=
  { pushByte (slot s.storeBase s.back) data s with
    back := advance s.capacity s.back
    length := toReg8 (s.length.toNat + 1) }

/-- The lines of a push at the front: retreat `FRONT` first, then write at the new one, then count (R133). -/
def placeFront (data : Byte) (s : State) : State :=
  { pushByte (slot s.storeBase (retreat s.capacity s.front)) data s with
    front := retreat s.capacity s.front
    length := toReg8 (s.length.toNat + 1) }

/-- A read at the front, nothing moved (R138). -/
def lookFront (s : State) : Byte × State :=
  memRead (slot s.storeBase s.front) s

/-- A read at the back, the retreated index, nothing moved (R139). -/
def lookBack (s : State) : Byte × State :=
  memRead (slot s.storeBase (retreat s.capacity s.back)) s

/-- The lines of a pop at the back: retreat `BACK` first, then read at the new one, then count (R134). -/
def takeBack (s : State) : Byte × State :=
  ((lookBack s).1,
   { (lookBack s).2 with
     back := retreat s.capacity s.back
     length := toReg8 (s.length.toNat - 1) })

/-- The lines of a pop at the front: read at the old `FRONT`, then advance it, then count (R135). -/
def takeFront (s : State) : Byte × State :=
  ((lookFront s).1,
   { (lookFront s).2 with
     front := advance s.capacity s.front
     length := toReg8 (s.length.toNat - 1) })

/-- The checks of a push, in the order of R219: `NotConstructed`, then `Full`; then `place` and `Ok`. -/
def pushChecked (place : State → State) (s : State) : State :=
  if s.constructed = false then respond .notConstructed 0x00#8 s
  else if s.length = s.capacity then respond .full 0x00#8 s
  else respond .ok 0x00#8 (place s)

/-- The checks of a pop or peek, in the order of R219: `NotConstructed`, then `Empty`, each with data
`any8` (R109); then `take` and `Ok` with the byte read. -/
def takeChecked (take : State → Byte × State) (s : State) : State :=
  if s.constructed = false then respondAny8 .notConstructed s
  else if s.length = 0#8 then respondAny8 .empty s
  else respond .ok (take s).1 (take s).2

/-- A predicate's answer (R136, R137): `NotConstructed`, else 0x01 for true and 0x00 for false. -/
def answerChecked (p : Bool) (s : State) : State :=
  if s.constructed = false then respond .notConstructed 0x00#8 s
  else respond .ok (if p then 0x01#8 else 0x00#8) s

/-- The register writes of a successful `CONSTRUCT` (R131): an empty queue over a new region. A new borrow
starts (R61), so the model's records of the old one end (log 21). -/
def newQueue (store : Addr) (capacity : Byte) (s : State) : State :=
  { s with
    capacity := capacity
    length := 0x00#8
    front := 0x00#8
    back := 0x00#8
    storeBase := store
    constructed := true
    pushed := []
    hostKept := true }

/-! ### Receive faults (R215, R222, R223) -/

/-- The cause mask of a source item's diagnostics, `{0b0, oerr, ferr, perr}` (R184, R215). -/
def diagnosticMask (it : SrcItem) : BitVec 4 :=
  0b0#1 ++ BitVec.ofBool it.oerr ++ BitVec.ofBool it.ferr ++ BitVec.ofBool it.perr

/-- The data byte `{0b0000, m}` that carries a cause mask (R109). -/
def faultByte (m : BitVec 4) : Byte := 0b0000#4 ++ m

/-- Fault entry, `raise ReceiveFault(m)` (R222): `FAULT`, `STATE`, `PHASE` and the one response owed to the
`RX_START` of the session. No context is saved, nothing is emitted, control goes nowhere. -/
def raiseReceiveFault (m : BitVec 4) (s : State) : State :=
  respond .receiveFault (faultByte m) { s with fault := m, rxState := .faulted, phase := .none }

/-- The way into a session, and under `FAULT_POLICY == Restartable` the way out of Faulted (R172, R223). -/
def startSession (s : State) : State :=
  { s with rxState := .receiving, fault := 0b0000#4, phase := .resume }

/-- Reset (R240, R36): every register of the block takes its reset value; STORE, the ports' other sides,
the parameters and what has been handed over stay (R241). The borrow ends (R61), and with it the model's records
of it (log 21). The other way out of Faulted (R223). -/
def resetBlock (s : State) : State :=
  { s with
    capacity := 0x00#8
    length := 0x00#8
    front := 0x00#8
    back := 0x00#8
    storeBase := 0x0000#16
    constructed := false
    threshold := 0x00#8
    delim := 0x00#8
    rxState := .idle
    fault := 0b0000#4
    phase := .none
    pushed := []
    hostKept := true }

end Sys2Proof.Machine
end

