-- ==== Sys2Proof/Machine/Flags.lean ====
section
/-! DEFINITION. The flags (`10_state.md` R32), the REG space (R40) and the `STATUS` register (R41): all
computed, none stored. -/

namespace Sys2Proof.Machine

open Sys2Proof

/-- `FULL` (R32): by `LENGTH` alone, never by the indices. -/
def fullFlag (s : State) : Bool := s.constructed && (s.length == s.capacity)

/-- `EMPTY` (R32). -/
def emptyFlag (s : State) : Bool := s.constructed && (s.length == 0#8)

/-- The encoding of `STATE` (R23). -/
def rxStateCode : RxState → BitVec 2
  | .idle => 0#2
  | .receiving => 1#2
  | .completed => 2#2
  | .faulted => 3#2

/-- `STATUS` (R41): bits 7:6 zero, 5:4 `STATE`, 3 zero, 2 `EMPTY`, 1 `FULL`, 0 `CONSTRUCTED`. -/
def statusByte (s : State) : Byte :=
  0b00#2 ++ rxStateCode s.rxState ++ 0b0#1 ++ BitVec.ofBool (emptyFlag s) ++ BitVec.ofBool (fullFlag s)
    ++ BitVec.ofBool s.constructed

/-- `reg[n]`: the register numbered `n` of the REG space (R40); the numbers 0x0C to 0xFF are reserved. -/
def regRead (n : Byte) (s : State) : Option Byte :=
  match n.toNat with
  | 0x00 => some s.capacity
  | 0x01 => some s.length
  | 0x02 => some s.front
  | 0x03 => some s.back
  | 0x04 => some (s.storeBase.extractLsb' 0 8)
  | 0x05 => some (s.storeBase.extractLsb' 8 8)
  | 0x06 => some s.threshold
  | 0x07 => some s.delim
  | 0x08 => some (statusByte s)
  | 0x09 => some (faultByte s.fault)
  | 0x0A => some s.cfg.resumeCode
  | 0x0B => some s.cfg.pauseCode
  | _ => none

end Sys2Proof.Machine
end

