-- ==== Sys2Proof/Machine/Receiver.lean ====
section
/-! DEFINITION. The commands `RX_CONFIG`, `RX_START` and `RDREG` (`41_receiver_ops.md` section 1). -/

namespace Sys2Proof.Machine

open Sys2Proof

/-- `RX_CONFIG threshold, delimiter` (R170): both loaded, nothing checked. -/
def execRxConfig (threshold delimiter : Byte) (s : State) : Host.Outcome State Fault Refusal :=
  .next (respond .ok 0x00#8 { s with threshold := threshold, delim := delimiter })

/-- `RX_START` (R172): the checks in the order `NotConstructed`, `Halted`, `BadThreshold` (C9); accepted,
a session starts and the response is owed until it ends. -/
def execRxStart (s : State) : Host.Outcome State Fault Refusal :=
  if s.constructed = false then .next (respond .notConstructed 0x00#8 s)
  else if s.rxState = .faulted ∧ s.cfg.faultPolicy = .halt then .next (respond .halted 0x00#8 s)
  else if s.threshold = 0#8 ∨ s.capacity.toNat < s.threshold.toNat then .next (respond .badThreshold 0x00#8 s)
  else .next (startSession s)

/-- `RDREG n` (R176). -/
def execRdreg (n : Byte) (s : State) : Host.Outcome State Fault Refusal :=
  match regRead n s with
  | some v => .next (respond .ok v s)
  | none => .next (respond .badRegister 0x00#8 s)

end Sys2Proof.Machine
end

