-- ==== Sys2Proof/Machine/RingBuffer.lean ====
section
/-! DEFINITION. The nine ring buffer commands (`40_ringbuffer_ops.md`). Each is one atomic step with its
response (R8, R96). -/

namespace Sys2Proof.Machine

open Sys2Proof

/-- `CONSTRUCT store, capacity` (R131); `ZeroCapacity` is tested first (C1). STORE is not touched. -/
def execConstruct (store : Addr) (capacity : Byte) (s : State) : Host.Outcome State Fault Refusal :=
  if capacity = 0#8 then .next (respond .zeroCapacity 0x00#8 s)
  else if store = 0x0000#16 then .next (respond .nullBackingStore 0x00#8 s)
  else .next (respond .ok 0x00#8 (newQueue store capacity s))

/-- `PUSH_BACK data` (R132). -/
def execPushBack (data : Byte) (s : State) : Host.Outcome State Fault Refusal :=
  .next (pushChecked (placeBack data) s)

/-- `PUSH_FRONT data` (R133). -/
def execPushFront (data : Byte) (s : State) : Host.Outcome State Fault Refusal :=
  .next (pushChecked (placeFront data) s)

/-- `POP_BACK` (R134). -/
def execPopBack (s : State) : Host.Outcome State Fault Refusal :=
  .next (takeChecked takeBack s)

/-- `POP_FRONT` (R135). -/
def execPopFront (s : State) : Host.Outcome State Fault Refusal :=
  .next (takeChecked takeFront s)

/-- `IS_FULL` (R136): `LENGTH == CAPACITY`. -/
def execIsFull (s : State) : Host.Outcome State Fault Refusal :=
  .next (answerChecked (s.length == s.capacity) s)

/-- `IS_EMPTY` (R137): `LENGTH == 0`. -/
def execIsEmpty (s : State) : Host.Outcome State Fault Refusal :=
  .next (answerChecked (s.length == 0#8) s)

/-- `PEEK_FRONT` (R138): fails explicitly on an empty buffer, with no STORE read. -/
def execPeekFront (s : State) : Host.Outcome State Fault Refusal :=
  .next (takeChecked lookFront s)

/-- `PEEK_BACK` (R139): the slot `(BACK + CAPACITY - 1) mod CAPACITY`. -/
def execPeekBack (s : State) : Host.Outcome State Fault Refusal :=
  .next (takeChecked lookBack s)

end Sys2Proof.Machine
end

