-- ==== Sys2Proof/Machine/Dispatch.lean ====
section
/-! DEFINITION. The meaning of each command, one arm a constructor. -/

namespace Sys2Proof.Machine

open Sys2Proof

/-- A command's execution and response (R96). -/
def exec (i : Instr) (s : State) : Host.Outcome State Fault Refusal :=
  match i with
  | .construct store capacity => Sys2Proof.Machine.execConstruct store capacity s
  | .pushBack data => Sys2Proof.Machine.execPushBack data s
  | .pushFront data => Sys2Proof.Machine.execPushFront data s
  | .popBack => Sys2Proof.Machine.execPopBack s
  | .popFront => Sys2Proof.Machine.execPopFront s
  | .isFull => Sys2Proof.Machine.execIsFull s
  | .isEmpty => Sys2Proof.Machine.execIsEmpty s
  | .peekFront => Sys2Proof.Machine.execPeekFront s
  | .peekBack => Sys2Proof.Machine.execPeekBack s
  | .rxConfig threshold delimiter => Sys2Proof.Machine.execRxConfig threshold delimiter s
  | .rxStart => Sys2Proof.Machine.execRxStart s
  | .rdreg n => Sys2Proof.Machine.execRdreg n s

end Sys2Proof.Machine
end

