-- ==== Sys2Proof/Machine/Environment.lean ====
section
/-! DEFINITION. The moves of the environment (`00_scope.md` R9): RESET and SINK drive their pins, HOST and
SOURCE offer, HOST writes its STORE. A side that has offered keeps the offer until it is taken (R91), so
an offer is only ever added behind the others. -/

namespace Sys2Proof.Machine

open Sys2Proof

/-- HOST writes one byte of its STORE. A write in the borrowed region breaks R250, which the block cannot detect
(R72): only the model's record tells (log 21). -/
def hostWrite (a : Addr) (v : Byte) (s : State) : State :=
  { s with
    store := Memory.set a.toNat v s.store
    hostKept := s.hostKept && !(s.constructed && isSlot s.storeBase s.capacity a) }

/-- One move of the environment. It changes no register of the block (log 1, log 9). -/
def envMove (m : EnvMove) (s : State) : State :=
  match m with
  | .clock => s
  | .setRst level => { s with rst := level }
  | .setSinkReady level => { s with sinkReady := level }
  | .offerCommand word => { s with commands := s.commands ++ [word] }
  | .offerItem item => { s with source := s.source ++ [item] }
  | .hostWrite addr value => hostWrite addr value s

end Sys2Proof.Machine
end

