-- ==== Sys2Proof/Machine/Sequencer.lean ====
section
/-! DEFINITION. The three steps of the receive sequencer (`41_receiver_ops.md` R183 to R185). A step that
is not enabled leaves the state as it is: the sequencer waits, without bound and without fault (R10, U10;
log 7). -/

namespace Sys2Proof.Machine

open Sys2Proof

/-- `SEQ_RESUME` (R183), enabled when SINK is ready. -/
def seqResume (s : State) : State :=
  if s.sinkReady then { snkWrite s.cfg.resumeCode s with phase := .byte } else s

/-- `SrcRead()` (R66): the item SOURCE offers first is consumed. -/
def srcTake (rest : List SrcItem) (s : State) : State :=
  { s with source := rest, taken := s.taken + 1 }

/-- A stop condition of the session, on the state after the push (R184 step 3): the delimiter detector or
the threshold comparator, which reads the total `LENGTH`. -/
def stopCondition (b : Byte) (s : State) : Bool :=
  b == s.delim || decide (s.threshold.toNat ≤ s.length.toNat)

/-- What `SEQ_BYTE` does with the item it took (R184): diagnostics, then buffer full, then the push and the
stop conditions (R219). -/
def receiveItem (it : SrcItem) (s : State) : State :=
  if it.perr || it.ferr || it.oerr then raiseReceiveFault (diagnosticMask it) s
  else if s.length = s.capacity then raiseReceiveFault 0b1000#4 s
  else if stopCondition it.data (placeBack it.data s) then { placeBack it.data s with phase := .pause }
  else placeBack it.data s

/-- `SEQ_BYTE` (R184), enabled when SOURCE offers an item. -/
def seqByte (s : State) : State :=
  match s.source with
  | [] => s
  | it :: rest => receiveItem it (srcTake rest s)

/-- `SEQ_PAUSE` (R185), enabled when SINK is ready: the pause byte, then Completed and the response. -/
def seqPause (s : State) : State :=
  if s.sinkReady then
    respond .ok 0x00#8 { snkWrite s.cfg.pauseCode s with rxState := .completed, phase := .none }
  else s

end Sys2Proof.Machine
end

