-- ==== Sys2Proof/Machine/Block.lean ====
section
/-! DEFINITION. One step of the block, and one step of the whole machine (`00_scope.md` R8, R9). -/

namespace Sys2Proof.Machine

open Sys2Proof

/-- The command word taken, decoded and executed: the illegal-command check comes before everything else
(R104, R219). -/
def execWord (w : CmdWord) (s : State) : Host.Outcome State Fault Refusal :=
  match decode w with
  | .legal i => exec i s
  | .illegal _ => .next (answerIllegal s)

/-- The command transfer (R91, R96): the word HOST offers first is taken and executed; with no offer the
block is quiescent (R10). -/
def takeCommand (s : State) : Host.Outcome State Fault Refusal :=
  match s.commands with
  | [] => .next s
  | w :: rest => execWord w { s with commands := rest }

/-- One step of the block with the pins as they stand: reset wins (R219, R240); else `PHASE` says who
moves (R33, R96): the command executor outside a session, the sequencer inside one. -/
def blockStep (s : State) : Host.Outcome State Fault Refusal :=
  if s.rst then .next (resetBlock s)
  else match s.phase with
    | .none => takeCommand s
    | .resume => .next (seqResume s)
    | .byte => .next (seqByte s)
    | .pause => .next (seqPause s)

/-- One step of the machine: the schedule's next entry, or, when it has none left, the block's step
(log 1). -/
def machineStep (s : State) : Host.Outcome State Fault Refusal :=
  match s.moves with
  | [] => blockStep s
  | .clock :: rest => blockStep { s with moves := rest }
  | m :: rest => .next (envMove m { s with moves := rest })

/-- HOST offers the word first, and the very next step takes it: outside a session, out of reset, with
the block next to move (log 10). -/
def placeCommand (w : CmdWord) (s : State) : State :=
  { s with
    commands := w :: s.commands
    phase := .none
    rst := false
    moves := if s.moves = [] then [] else .clock :: s.moves }

end Sys2Proof.Machine
end

