-- ==== Sys2Proof/Machine/Step.lean ====
section
/-! DEFINITION. The step of the machine, and where it finds its next command. -/

namespace Sys2Proof.Machine

open Sys2Proof

/-- One step (`Machine/Block.lean`). -/
def step (s : State) : Host.Outcome State Fault Refusal := machineStep s

/-- `s` with the command word of `nbits` bits `w` offered where the next step takes its command. -/
def State.withFetchWord (s : State) (nbits w : Nat) : State := placeCommand (tableWord nbits w) s

end Sys2Proof.Machine
end

