-- ==== Sys2Proof/Machine/Assembler.lean ====
section
/-! DEFINITION. The textual form of a command (`30_encoding.md` R107): one command a line, the mnemonic,
then its operands separated by a comma and a space. Conventions R107 does not state: log 17. -/

namespace Sys2Proof.Machine

open Sys2Proof

/-- The value of a decimal digit. -/
def decDigit? (c : Char) : Option Nat :=
  if '0'.toNat ≤ c.toNat ∧ c.toNat ≤ '9'.toNat then some (c.toNat - '0'.toNat) else none

/-- The value of a hexadecimal digit, of either case. -/
def hexDigit? (c : Char) : Option Nat :=
  if 'a'.toNat ≤ c.toNat ∧ c.toNat ≤ 'f'.toNat then some (c.toNat - 'a'.toNat + 10)
  else if 'A'.toNat ≤ c.toNat ∧ c.toNat ≤ 'F'.toNat then some (c.toNat - 'A'.toNat + 10)
  else decDigit? c

/-- A run of digits in a base, behind the value read so far; it ends at the first other character. -/
def digitsFrom (digit? : Char → Option Nat) (base acc : Nat) : List Char → Nat × List Char
  | [] => (acc, [])
  | c :: cs =>
    match digit? c with
    | some d => digitsFrom digit? base (acc * base + d) cs
    | none => (acc, c :: cs)

/-- A run of at least one digit. -/
def digits? (digit? : Char → Option Nat) (base : Nat) : List Char → Option (Nat × List Char)
  | [] => none
  | c :: cs =>
    match digit? c with
    | some d => some (digitsFrom digit? base d cs)
    | none => none

/-- A number of R107: hexadecimal with `0x`, a character in single quotes standing for its ASCII code
(the line feed written with a backslash), or decimal. -/
def number? : List Char → Option (Nat × List Char)
  | '0' :: 'x' :: cs => digits? hexDigit? 16 cs
  | '\'' :: '\\' :: 'n' :: '\'' :: cs => some (0x0A, cs)
  | '\'' :: c :: '\'' :: cs => if c.toNat < 128 then some (c.toNat, cs) else none
  | cs => digits? decDigit? 10 cs

/-- A number that fits its operand field of `n` bits (R101). -/
def operand? (n : Nat) (cs : List Char) : Option (BitVec n × List Char) :=
  match number? cs with
  | some (v, rest) => if v < 2 ^ n then some (BitVec.ofNat n v, rest) else none
  | none => none

/-- A capital letter or an underscore: the characters of a name. -/
def nameChar (c : Char) : Bool :=
  decide ('A'.toNat ≤ c.toNat ∧ c.toNat ≤ 'Z'.toNat) || c == '_'

/-- The register names `RDREG` may use, with their numbers (`10_state.md` R40). -/
def registerNames : List (List Char × Byte) :=
  [ ("CAPACITY".toList, 0x00#8), ("LENGTH".toList, 0x01#8), ("FRONT".toList, 0x02#8),
    ("BACK".toList, 0x03#8), ("STORE_BASE_LO".toList, 0x04#8), ("STORE_BASE_HI".toList, 0x05#8),
    ("THRESHOLD".toList, 0x06#8), ("DELIM".toList, 0x07#8), ("STATUS".toList, 0x08#8),
    ("FAULT".toList, 0x09#8), ("RESUME_CODE".toList, 0x0A#8), ("PAUSE_CODE".toList, 0x0B#8) ]

/-- The register operand of `RDREG`: a name of R40 or a number. -/
def register? (cs : List Char) : Option (Byte × List Char) :=
  match registerNames.lookup (cs.takeWhile nameChar) with
  | some n => some (n, cs.dropWhile nameChar)
  | none => operand? 8 cs

/-- After the last operand only spaces and a comment may stand. -/
def lineEnds : List Char → Bool
  | [] => true
  | ' ' :: cs => lineEnds cs
  | ';' :: _ => true
  | _ :: _ => false

/-- A command without operands. -/
def noOperand (i : Instr) (cs : List Char) : Option Instr :=
  if lineEnds cs then some i else none

/-- A command with one operand, behind one space. -/
def oneOperand {α : Type} (parse : List Char → Option (α × List Char)) (mk : α → Instr) :
    List Char → Option Instr
  | ' ' :: cs =>
    match parse cs with
    | some (v, rest) => if lineEnds rest then some (mk v) else none
    | none => none
  | _ => none

/-- A command with two operands, separated by a comma and a space. -/
def twoOperands {α β : Type} (parse₁ : List Char → Option (α × List Char))
    (parse₂ : List Char → Option (β × List Char)) (mk : α → β → Instr) : List Char → Option Instr
  | ' ' :: cs =>
    match parse₁ cs with
    | some (v, ',' :: ' ' :: rest) => oneOperand parse₂ (mk v) (' ' :: rest)
    | _ => none
  | _ => none

/-- The command of a line: the mnemonic in capitals, then its operands in the order of R107. -/
def parseLine (line : List Char) : Option Instr :=
  let name := line.takeWhile nameChar
  let rest := line.dropWhile nameChar
  if name = "CONSTRUCT".toList then twoOperands (operand? 16) (operand? 8) .construct rest
  else if name = "PUSH_BACK".toList then oneOperand (operand? 8) .pushBack rest
  else if name = "PUSH_FRONT".toList then oneOperand (operand? 8) .pushFront rest
  else if name = "POP_BACK".toList then noOperand .popBack rest
  else if name = "POP_FRONT".toList then noOperand .popFront rest
  else if name = "IS_FULL".toList then noOperand .isFull rest
  else if name = "IS_EMPTY".toList then noOperand .isEmpty rest
  else if name = "PEEK_FRONT".toList then noOperand .peekFront rest
  else if name = "PEEK_BACK".toList then noOperand .peekBack rest
  else if name = "RX_CONFIG".toList then twoOperands (operand? 8) (operand? 8) .rxConfig rest
  else if name = "RX_START".toList then noOperand .rxStart rest
  else if name = "RDREG".toList then oneOperand register? .rdreg rest
  else none

/-- The command word of a line: exactly one word a line, no pseudo-instructions (R107). -/
def assemble (line : List Char) : Option CmdWord :=
  (parseLine line).map encode

/-- The hexadecimal digit of a nibble. -/
def hexChar (d : Nat) : Char :=
  if d < 10 then Char.ofNat ('0'.toNat + d) else Char.ofNat ('A'.toNat + (d - 10))

/-- A byte written `0x` and two hexadecimal digits. -/
def renderByte (b : Byte) : List Char :=
  ['0', 'x', hexChar (b.toNat / 16), hexChar (b.toNat % 16)]

/-- An address written `0x` and four hexadecimal digits. -/
def renderAddr (a : Addr) : List Char :=
  ['0', 'x', hexChar (a.toNat / 4096), hexChar (a.toNat / 256 % 16), hexChar (a.toNat / 16 % 16),
    hexChar (a.toNat % 16)]

/-- A command written as a line of R107, its operands in hexadecimal. -/
def render (i : Instr) : List Char :=
  i.mnemonic.toList ++
  match i with
  | .construct store capacity => ' ' :: renderAddr store ++ ',' :: ' ' :: renderByte capacity
  | .pushBack data => ' ' :: renderByte data
  | .pushFront data => ' ' :: renderByte data
  | .popBack => []
  | .popFront => []
  | .isFull => []
  | .isEmpty => []
  | .peekFront => []
  | .peekBack => []
  | .rxConfig threshold delimiter => ' ' :: renderByte threshold ++ ',' :: ' ' :: renderByte delimiter
  | .rxStart => []
  | .rdreg n => ' ' :: renderByte n

end Sys2Proof.Machine
end

