-- ==== Sys2Proof/Machine/Ports.lean ====
section
/-! DEFINITION. The signals of RBC-FCR (`30_encoding.md` R90) as functions of the state, and, for the
signals that show what one step does (response and store ports), of the states around the step. -/

namespace Sys2Proof.Machine

open Sys2Proof

/-- `cmd_valid`: HOST offers a command word. -/
def cmdValid (s : State) : Bool := !s.commands.isEmpty

/-- `cmd_word`, the word offered, while one is (log 13). -/
def cmdWordIn (s : State) : Option CmdWord := s.commands.head?

/-- `cmd_ready = (PHASE == PH_NONE) and (rst == 0)` (R96). -/
def cmdReady (s : State) : Bool := decide (s.phase = .none) && !s.rst

/-- `src_valid`: SOURCE offers an item. -/
def srcValid (s : State) : Bool := !s.source.isEmpty

/-- `src_data` and the three flags, while an item is offered (log 13). -/
def srcItemIn (s : State) : Option SrcItem := s.source.head?

/-- `src_ready = (PHASE == PH_BYTE)` (R92), and 0 while `rst == 1` (R240). -/
def srcReady (s : State) : Bool := decide (s.phase = .byte) && !s.rst

/-- `snk_valid = (PHASE == PH_RESUME) or (PHASE == PH_PAUSE)` (R93), and 0 while `rst == 1` (R240). -/
def snkValid (s : State) : Bool := (decide (s.phase = .resume) || decide (s.phase = .pause)) && !s.rst

/-- `snk_data` (R93), while `snk_valid` is 1; otherwise it "is not meaningful" (log 13). -/
def snkData (s : State) : Option Byte :=
  if snkValid s = false then none
  else if s.phase = .resume then some s.cfg.resumeCode else some s.cfg.pauseCode

/-- `full` (R90, R94). -/
def fullWire (s : State) : Bool := fullFlag s

/-- `empty` (R90, R94). -/
def emptyWire (s : State) : Bool := emptyFlag s

/-- `rx_state` (R90, R94). -/
def rxStateWire (s : State) : BitVec 2 := rxStateCode s.rxState

/-- `rx_fault` (R90, R94). -/
def rxFaultWire (s : State) : BitVec 4 := s.fault

/-- The next step is a clock edge of the block, not a move of the environment (log 1). -/
def clockEdge (s : State) : Bool :=
  match s.moves with
  | [] => true
  | .clock :: _ => true
  | _ :: _ => false

/-- A transfer happens on the command port in the next step (R91). -/
def cmdTransfer (s : State) : Bool := clockEdge s && cmdValid s && cmdReady s

/-- A transfer happens on the source port in the next step (R91). -/
def srcTransfer (s : State) : Bool := clockEdge s && srcValid s && srcReady s

/-- A transfer happens on the sink port in the next step (R91). -/
def snkTransfer (s : State) : Bool := clockEdge s && snkValid s && s.sinkReady

/-- `rsp_word`, and `rsp_valid` by its presence, in the step from `s` to `t` (R98). -/
def rspWord (s t : State) : Option RspWord := (t.responses.drop s.responses.length).head?

/-- The store port in the step from `s` to `t` (R95): the access made, if one is. -/
def storePort (s t : State) : Option StoreAccess := (t.accesses.drop s.accesses.length).head?

/-- `st_we` in the step from `s` to `t`. -/
def stWe (s t : State) : Bool :=
  match storePort s t with
  | some (.write _ _) => true
  | _ => false

/-- `st_re` in the step from `s` to `t`. -/
def stRe (s t : State) : Bool :=
  match storePort s t with
  | some (.read _ _) => true
  | _ => false

/-- `st_addr` in the step from `s` to `t`, while an access is made. -/
def stAddr (s t : State) : Option Addr :=
  match storePort s t with
  | some (.read a _) => some a
  | some (.write a _) => some a
  | none => none

/-- `st_wdata` in the step from `s` to `t`, while a byte is written. -/
def stWdata (s t : State) : Option Byte :=
  match storePort s t with
  | some (.write _ v) => some v
  | _ => none

/-- `st_rdata` in the step from `s` to `t`, while a byte is read. -/
def stRdata (s t : State) : Option Byte :=
  match storePort s t with
  | some (.read _ v) => some v
  | _ => none

end Sys2Proof.Machine
end

