-- ==== Sys2Proof/Safety.lean ====
section
/-! DEFINITION. What a good state is (`10_state.md` R35), the queue a state stands for (`40_ringbuffer_ops.md`
R142), what two states have in common, and runs of several steps: the terms the statements use. -/

namespace Sys2Proof.Machine

open Sys2Proof

/-- The STORE address of the queue's k-th element, counted from the front (R35 INV5). -/
def liveSlot (s : State) (k : Nat) : Addr :=
  slot s.storeBase (toReg8 ((s.front.toNat + k) % s.capacity.toNat))

/-- The queue, front to back: `q_k = MemRead(slot((FRONT + k) mod CAPACITY), 1)` (R142). -/
def queue (s : State) : List Byte :=
  (List.range s.length.toNat).map (fun k => Memory.read s.store (liveSlot s k))

/-- An address of the borrowed region `slot(0) .. slot(CAPACITY-1)` (R61). -/
def inRegion (s : State) (a : Addr) : Prop :=
  ∃ i : Byte, i.toNat < s.capacity.toNat ∧ a = slot s.storeBase i

/-- What INV5 of R35 says of the slots of the queue: each has been written, and by a push since the last
successful `CONSTRUCT`; and provided HOST has kept R250, it holds the byte the latest such push wrote. -/
structure LivePushed (s : State) : Prop where
  written : ∀ k, k < s.length.toNat → ∃ v, Memory.get? (liveSlot s k).toNat s.store = some v
  pushed : ∀ k, k < s.length.toNat → ∃ v, Memory.get? (liveSlot s k).toNat s.pushed = some v
  kept : s.hostKept = true → ∀ k, k < s.length.toNat →
    Memory.get? (liveSlot s k).toNat s.store = Memory.get? (liveSlot s k).toNat s.pushed

/-- The invariants of R35, INV1 to INV10, and the canonical form of the memories. -/
structure Coherent (s : State) : Prop where
  inv1 : s.constructed = true → 1 ≤ s.capacity.toNat ∧ s.storeBase ≠ 0x0000#16
  inv2 : s.constructed = true → s.length.toNat ≤ s.capacity.toNat
  inv3 : s.constructed = true → s.front.toNat < s.capacity.toNat ∧ s.back.toNat < s.capacity.toNat
  inv4 : s.constructed = true → s.back.toNat = (s.front.toNat + s.length.toNat) % s.capacity.toNat
  inv5 : s.constructed = true → LivePushed s
  inv6 : s.constructed = false →
    s.capacity = 0#8 ∧ s.length = 0#8 ∧ s.front = 0#8 ∧ s.back = 0#8 ∧ s.storeBase = 0#16
  inv7 : s.fault ≠ 0#4 ↔ s.rxState = .faulted
  inv8 : s.phase ≠ .none ↔ s.rxState = .receiving
  inv9 : s.rxState = .receiving →
    s.constructed = true ∧ 0 < s.threshold.toNat ∧ s.threshold.toNat ≤ s.capacity.toNat
  inv10 : s.fault.getLsbD 3 = true → s.fault.extractLsb' 0 3 = 0#3
  storeWf : Memory.wf s.store = true
  pushedWf : Memory.wf s.pushed = true

/-- The ring buffer registers agree (R22, R24 to R28). -/
structure SameRing (s t : State) : Prop where
  capacity : t.capacity = s.capacity
  length : t.length = s.length
  front : t.front = s.front
  back : t.back = s.back
  storeBase : t.storeBase = s.storeBase
  constructed : t.constructed = s.constructed

/-- The receiver's registers and the hidden phase agree (R23, R29 to R31, R33). -/
structure SameReceiver (s t : State) : Prop where
  threshold : t.threshold = s.threshold
  delim : t.delim = s.delim
  rxState : t.rxState = s.rxState
  fault : t.fault = s.fault
  phase : t.phase = s.phase

/-- No STORE access has been made, and every address reads as before (R64). -/
structure SameStore (s t : State) : Prop where
  bytes : ∀ a, Memory.read t.store a = Memory.read s.store a
  accesses : t.accesses = s.accesses

/-- The model's records of the borrow agree: what pushes wrote, and whether HOST kept R250 (log 21). -/
structure SameRecord (s t : State) : Prop where
  pushed : t.pushed = s.pushed
  hostKept : t.hostKept = s.hostKept

/-- The bytes that pushes since the last successful `CONSTRUCT` wrote in the slots of the queue, front to back
(R35 INV5). -/
def pushedQueue (s : State) : List (Option Byte) :=
  (List.range s.length.toNat).map (fun k => Memory.get? (liveSlot s k).toNat s.pushed)

/-- Exactly one byte has been written, by one access (R64), that of a push, and every other address reads as
before. -/
structure WroteOne (s t : State) (a : Addr) (v : Byte) : Prop where
  here : Memory.read t.store a = v
  elsewhere : ∀ b, b ≠ a → Memory.read t.store b = Memory.read s.store b
  accesses : t.accesses = s.accesses ++ [.write a v]
  pushed : t.pushed = Memory.set a.toNat v s.pushed
  hostKept : t.hostKept = s.hostKept

/-- Exactly one byte has been read, by one access (R64), and every address reads as before. -/
structure ReadOne (s t : State) (a : Addr) : Prop where
  bytes : ∀ b, Memory.read t.store b = Memory.read s.store b
  accesses : t.accesses = s.accesses ++ [.read a (Memory.read s.store a)]
  record : SameRecord s t

/-- The source and sink streams agree: no item taken, no byte handed over. -/
structure SameStreams (s t : State) : Prop where
  source : t.source = s.source
  taken : t.taken = s.taken
  sink : t.sink = s.sink

/-- The parameters, the pins, the offers of HOST and the schedule agree. -/
structure SameEnvironment (s t : State) : Prop where
  cfg : t.cfg = s.cfg
  rst : t.rst = s.rst
  sinkReady : t.sinkReady = s.sinkReady
  commands : t.commands = s.commands
  moves : t.moves = s.moves

/-- Everything agrees but the responses and the count of free values drawn: what R213 says of a command
that fails. -/
structure OnlyAnswered (s t : State) : Prop where
  ring : SameRing s t
  receiver : SameReceiver s t
  store : SameStore s t
  record : SameRecord s t
  streams : SameStreams s t
  environment : SameEnvironment s t

/-- The block takes `n` steps from `s`, none stopped, and ends in `t`. -/
def Runs (n : Nat) (s t : State) : Prop :=
  Host.Core.run Sys2Proof.core n s = .next t

/-- `t` is reached from `s` by steps that each begin in a session, whatever the schedule does between. -/
inductive InOneSession (s : State) : State → Prop
  | here : InOneSession s s
  | step {t u : State} (h : InOneSession s t) (hp : t.phase ≠ .none) (hs : step t = .next u) : InOneSession s u

/-- A session before its stop, with room for a byte (R188). -/
structure BelowCapacity (s : State) : Prop where
  phase : s.phase = .resume ∨ s.phase = .byte
  room : s.length.toNat < s.capacity.toNat

/-- The environment has no move left, `rst` is 0 and SINK is ready: every step is the block's. -/
structure Undisturbed (s : State) : Prop where
  moves : s.moves = []
  rst : s.rst = false
  sinkReady : s.sinkReady = true

/-- `s` once its first command has been transferred at a clock edge: the schedule's `clock` and HOST's offer
are spent (R91). -/
def commandTaken (s : State) : State :=
  { s with commands := s.commands.tail, moves := s.moves.tail }

/-- The next step of `s` transfers a word that decodes to `i` (R91, R96). -/
def Issues (s : State) (i : Instr) : Prop :=
  clockEdge s = true ∧ s.rst = false ∧ s.phase = .none ∧
    ∃ w rest, s.commands = w :: rest ∧ decode w = .legal i

/-- The next step of `s` is a clock edge of the block out of reset, in the phase `p`. -/
structure InPhase (s : State) (p : Phase) : Prop where
  edge : clockEdge s = true
  rst : s.rst = false
  phase : s.phase = p

/-- An item without a diagnostic (R184 step 1). -/
def SrcItem.clean (it : SrcItem) : Bool := !it.perr && !it.ferr && !it.oerr

/-- Commands executed one after another, as the host issues them outside a session. -/
def execAll : List Instr → State → Option State
  | [], s => some s
  | i :: is, s =>
    match exec i s with
    | .next t => execAll is t
    | .fault _ => none
    | .refused _ => none

/-- One response word has been presented, and no free value was drawn. -/
structure Answered (s t : State) (r : RspWord) : Prop where
  responses : t.responses = s.responses ++ [r]
  draws : t.draws = s.draws

/-- The status of a response word (R98). -/
def statusOf (r : RspWord) : BitVec 4 := r.extractLsb' 12 4

/-- The response word of status `Ok` with the data `d`: `d` above eight zero bits (R98, R99). -/
def okWord (d : Byte) : RspWord := 0x00#8 ++ d

/-- The slot address and the byte a command writes when it succeeds, if it writes (R64, R132, R133). -/
def slotWritten : Instr → State → Option (Addr × Byte)
  | .pushBack d, s => some (slot s.storeBase s.back, d)
  | .pushFront d, s => some (slot s.storeBase (retreat s.capacity s.front), d)
  | .construct _ _, _ => none
  | .popBack, _ => none
  | .popFront, _ => none
  | .isFull, _ => none
  | .isEmpty, _ => none
  | .peekFront, _ => none
  | .peekBack, _ => none
  | .rxConfig _ _, _ => none
  | .rxStart, _ => none
  | .rdreg _, _ => none

/-- The slot address a command reads when it succeeds, if it reads (R64, R134, R135, R138, R139). -/
def slotRead : Instr → State → Option Addr
  | .popBack, s => some (slot s.storeBase (retreat s.capacity s.back))
  | .popFront, s => some (slot s.storeBase s.front)
  | .peekFront, s => some (slot s.storeBase s.front)
  | .peekBack, s => some (slot s.storeBase (retreat s.capacity s.back))
  | .construct _ _, _ => none
  | .pushBack _, _ => none
  | .pushFront _, _ => none
  | .isFull, _ => none
  | .isEmpty, _ => none
  | .rxConfig _ _, _ => none
  | .rxStart, _ => none
  | .rdreg _, _ => none

/-- The registers of R37's access table, one for each column but STORE. -/
inductive RegName where
  | capacity
  | length
  | front
  | back
  | storeBase
  | constructed
  | threshold
  | delim
  | rxState
  | fault
  | phase
deriving DecidableEq, Repr

/-- The two states agree on one register. -/
def sameReg (r : RegName) (s t : State) : Prop :=
  match r with
  | .capacity => t.capacity = s.capacity
  | .length => t.length = s.length
  | .front => t.front = s.front
  | .back => t.back = s.back
  | .storeBase => t.storeBase = s.storeBase
  | .constructed => t.constructed = s.constructed
  | .threshold => t.threshold = s.threshold
  | .delim => t.delim = s.delim
  | .rxState => t.rxState = s.rxState
  | .fault => t.fault = s.fault
  | .phase => t.phase = s.phase

/-- `s` with one register taken from `from'`. -/
def copyReg (r : RegName) (from' s : State) : State :=
  match r with
  | .capacity => { s with capacity := from'.capacity }
  | .length => { s with length := from'.length }
  | .front => { s with front := from'.front }
  | .back => { s with back := from'.back }
  | .storeBase => { s with storeBase := from'.storeBase }
  | .constructed => { s with constructed := from'.constructed }
  | .threshold => { s with threshold := from'.threshold }
  | .delim => { s with delim := from'.delim }
  | .rxState => { s with rxState := from'.rxState }
  | .fault => { s with fault := from'.fault }
  | .phase => { s with phase := from'.phase }

/-- The `w` entries of a command's row of R37. -/
def mayWrite : Instr → List RegName
  | .construct _ _ => [.capacity, .length, .front, .back, .storeBase, .constructed]
  | .pushBack _ => [.length, .back]
  | .pushFront _ => [.length, .front]
  | .popBack => [.length, .back]
  | .popFront => [.length, .front]
  | .isFull => []
  | .isEmpty => []
  | .peekFront => []
  | .peekBack => []
  | .rxConfig _ _ => [.threshold, .delim]
  | .rxStart => [.rxState, .fault, .phase]
  | .rdreg _ => []

/-- The `r` entries of a command's row of R37. -/
def mayRead : Instr → List RegName
  | .construct _ _ => []
  | .pushBack _ => [.capacity, .length, .back, .storeBase, .constructed]
  | .pushFront _ => [.capacity, .length, .front, .storeBase, .constructed]
  | .popBack => [.capacity, .length, .back, .storeBase, .constructed]
  | .popFront => [.capacity, .length, .front, .storeBase, .constructed]
  | .isFull => [.capacity, .length, .constructed]
  | .isEmpty => [.length, .constructed]
  | .peekFront => [.length, .front, .storeBase, .constructed]
  | .peekBack => [.capacity, .length, .back, .storeBase, .constructed]
  | .rxConfig _ _ => []
  | .rxStart => [.capacity, .constructed, .threshold, .rxState]
  | .rdreg _ => [.capacity, .length, .front, .back, .storeBase, .constructed, .threshold, .delim, .rxState, .fault]

/-- The `w` entries of the three sequencer rows of R37, by the phase in which the step is enabled. -/
def seqMayWrite : Phase → List RegName
  | .none => []
  | .resume => [.phase]
  | .byte => [.length, .back, .rxState, .fault, .phase]
  | .pause => [.rxState, .phase]

/-- The `r` entries of the three sequencer rows of R37, by the phase in which the step is enabled. -/
def seqMayRead : Phase → List RegName
  | .none => []
  | .resume => [.phase]
  | .byte => [.capacity, .length, .back, .storeBase, .threshold, .delim, .phase]
  | .pause => [.phase]

/-- The step of the sequencer that a phase enables (R183 to R185). -/
def seqStep : Phase → State → State
  | .none, s => s
  | .resume, s => seqResume s
  | .byte, s => seqByte s
  | .pause, s => seqPause s

/-- The j-th item of a session that began with `L0` elements does not end it (R187). -/
def goesOn (L0 : Nat) (threshold capacity : Nat) (delim : Byte) (j : Nat) (it : SrcItem) : Prop :=
  it.clean = true ∧ L0 + j ≠ capacity ∧ it.data ≠ delim ∧ L0 + j + 1 < threshold

end Sys2Proof.Machine
end

