-- ==== Sys2Proof/Certificates/Slice0/Obligations.lean ====
section
/-! DEFINITION. The statements about RBC-FCR, from the numbered rules of spec/. Words like `0x3000#16` are the
response words the rules print. A premise `Coherent s` is the invariant of R35, itself stated below. A premise
`clockEdge s = true` says that the schedule lets the block move next (the schedule is the model's, log 1). That a
step of the block leaves the pins as they are (`SameEnvironment`) is the model's reading (`rst` log 12, `snk_ready`
log 19). `SameRecord` is about two records of the model's own (log 21). A free
byte (`any8`, log 2) appears as a byte that exists: nothing says which. -/

open Sys2Proof Sys2Proof.Machine

/-! ### Encoding -/

/-- `30_encoding.md` sections 2 and 4: decoding reads back every encoded command, and a word that decodes to a
command is that command's encoding: no bit is dropped and no two words mean one command. -/
def Obligations.DecodeAndEncodeAgree : Prop :=
  (∀ i : Instr, decode (encode i) = .legal i) ∧
  (∀ (w : CmdWord) (i : Instr), decode w = .legal i → encode i = w)

/-- R102: a word with a defined opcode and a non-zero must-be-zero bit is illegal; the masks cover `op`, `z` and
the must-be-zero parts: a word selects a row by mask and match exactly when it decodes to that row's command. -/
def Obligations.WordSelectsARowExactlyWhenItDecodesToIt : Prop :=
  (∀ w : CmdWord, 1 ≤ (opField w).toNat → (opField w).toNat ≤ 0xC →
    zField w ≠ 0#4 ∨ (opField w ∉ [0x1#4, 0xA#4] ∧ aField w ≠ 0#16) ∨
      (opField w = 0xA#4 ∧ aHigh w ≠ 0#8) ∨
      (opField w ∈ [0x4#4, 0x5#4, 0x6#4, 0x7#4, 0x8#4, 0x9#4, 0xB#4] ∧ bField w ≠ 0#8) →
    (∃ why, decode w = .illegal why) ∧ ∀ r ∈ commandRows, r.selects w = false) ∧
  (∀ (w : CmdWord) (r : CommandRow), r ∈ commandRows →
    (r.selects w = true ↔ ∃ i, decode w = .legal i ∧ i.mnemonic = r.mnemonic)) ∧
  (∀ r ∈ commandRows, r.mask &&& 0xFF000000#32 = 0xFF000000#32)

/-- Words printed in `30_encoding.md` section 5 (`CONSTRUCT`, `PUSH_BACK`, `RX_CONFIG`, `POP_FRONT`),
`40_ringbuffer_ops.md` sections 3 and 4 (`PUSH_FRONT`, `POP_BACK`) and `41_receiver_ops.md` section 1 (`RDREG`),
with the command each stands for. -/
def Obligations.PrintedWordsDecode : Prop :=
  decode 0x10010040#32 = .legal (.construct 0x0100#16 64#8) ∧
  decode 0x2000002A#32 = .legal (.pushBack 42#8) ∧
  decode 0x3000000A#32 = .legal (.pushFront 10#8) ∧
  decode 0x40000000#32 = .legal .popBack ∧
  decode 0x50000000#32 = .legal .popFront ∧
  decode 0xA000200A#32 = .legal (.rxConfig 32#8 0x0A#8) ∧
  decode 0xC000000C#32 = .legal (.rdreg 0x0C#8)

/-- R103. -/
def Obligations.IllegalWordIsAnsweredAndChangesNothing : Prop :=
  (∀ w : CmdWord, opField w ∈ [0x0#4, 0xD#4, 0xE#4, 0xF#4] ∨ wellFormedWord w = false →
    ∃ why, decode w = .illegal why) ∧
  (∃ why, decode 0x00000000#32 = .illegal why) ∧
  (∃ why, decode 0xFFFFFFFF#32 = .illegal why) ∧
  (∀ w : CmdWord, (∃ i, decode w = .legal i) ∨ ∃ why, decode w = .illegal why) ∧
  (∀ (s : State) (w : CmdWord) (rest : List CmdWord) (why : Illegal), InPhase s .none →
    s.commands = w :: rest → decode w = .illegal why →
    ∃ t, step s = .next t ∧ Answered (commandTaken s) t 0xF000#16 ∧ OnlyAnswered (commandTaken s) t)

/-- `30_encoding.md` section 5, the correspondence of text and word: the text of every command, operands in
hexadecimal, assembles to its word. -/
def Obligations.AssemblerReadsTheTextOfEveryCommand : Prop :=
  ∀ i : Instr, assemble (render i) = some (encode i)

/-- `30_encoding.md` section 5: the printed examples, a comment, a register name, and a number too wide for its
field (rejecting it is the model's choice, log 17). -/
def Obligations.AssemblerReadsThePrintedExamples : Prop :=
  assemble "CONSTRUCT 0x0100, 64".toList = some 0x10010040#32 ∧
  assemble "PUSH_BACK 42".toList = some 0x2000002A#32 ∧
  assemble "RX_CONFIG 32, '\\n'".toList = some 0xA000200A#32 ∧
  assemble "POP_FRONT".toList = some 0x50000000#32 ∧
  assemble "RDREG LENGTH ; the count".toList = assemble "RDREG 0x01".toList ∧
  assemble "PUSH_BACK 256".toList = none

/-! ### The step -/

/-- `30_encoding.md` section 1 (one command at a time): a step that transfers a legal word executes its
command on the state with the word taken; `withFetchWord` (the model's, log 10) offers a word so that the next
step does. -/
def Obligations.StepRunsTheDecodedCommand : Prop :=
  (∀ (s : State) (i : Instr), Issues s i → step s = exec i (commandTaken s)) ∧
  (∀ (s : State) (nbits w : Nat) (i : Instr), decodeTableWord nbits w = some i →
    step (s.withFetchWord nbits w) = exec i { s with phase := .none, rst := false })

/-- `00_scope.md` section 5: a move of the environment (the model's schedule, log 1) changes its own pin, offer or
byte, no register of the block and no trace; of the model's records it can only end `hostKept` (log 21). -/
def Obligations.EnvironmentMoveChangesOnlyItsOwnSide : Prop :=
  ∀ (s : State) (m : EnvMove) (rest : List EnvMove), s.moves = m :: rest → m ≠ .clock →
    ∃ t, step s = .next t ∧ t.moves = rest ∧ SameRing s t ∧ SameReceiver s t ∧
      t.cfg = s.cfg ∧ t.responses = s.responses ∧ t.sink = s.sink ∧ t.taken = s.taken ∧
      t.accesses = s.accesses ∧ t.draws = s.draws ∧ t.pushed = s.pushed ∧
      (t.hostKept = s.hostKept ∨
        ∃ a v, m = .hostWrite a v ∧ s.constructed = true ∧ inRegion s a ∧ t.hostKept = false) ∧
      t.rst = (match m with | .setRst b => b | _ => s.rst) ∧
      t.sinkReady = (match m with | .setSinkReady b => b | _ => s.sinkReady) ∧
      t.commands = (match m with | .offerCommand w => s.commands ++ [w] | _ => s.commands) ∧
      t.source = (match m with | .offerItem it => s.source ++ [it] | _ => s.source) ∧
      (∀ a, Memory.read t.store a =
        match m with
        | .hostWrite b v => if a = b then v else Memory.read s.store a
        | _ => Memory.read s.store a)

/-- `00_scope.md` section 5 and U10: with no command offered the block is quiescent; with SINK not ready or no
item offered the sequencer waits, and nothing but the clock passes (a waiting step is the model's, log 7). -/
def Obligations.WaitingChangesNothing : Prop :=
  ∀ s : State,
    (InPhase s .none ∧ s.commands = []) ∨ (InPhase s .resume ∧ s.sinkReady = false) ∨
      (InPhase s .byte ∧ s.source = []) ∨ (InPhase s .pause ∧ s.sinkReady = false) →
    step s = .next { s with moves := s.moves.tail }

/-- That every state has a next state is the model's: `00_scope.md` section 5 gives a run no architected end, from
which log 18 (DEDUCED) infers that nothing stops the machine; and where no step of the spec is enabled, a wait (U10), the
model has a waiting step (log 7, DESIGN CHOICE). -/
def Obligations.NoStepStopsTheMachine : Prop :=
  ∀ s : State, ∃ t, step s = .next t

/-- `20_memory.md` sections 1 to 4: a step presents at most one response, hands over at most one byte, takes at
most one item and makes at most one STORE access, and never changes a parameter. -/
def Obligations.AStepDoesAtMostOneOfEach : Prop :=
  ∀ s t : State, step s = .next t →
    t.cfg = s.cfg ∧
    (t.responses = s.responses ∨ ∃ r, t.responses = s.responses ++ [r]) ∧
    (t.sink = s.sink ∨ ∃ b, t.sink = s.sink ++ [b]) ∧
    (t.taken = s.taken ∨ t.taken = s.taken + 1) ∧
    (t.accesses = s.accesses ∨ ∃ x, t.accesses = s.accesses ++ [x])

/-! ### Reset -/

/-- R36: the reset values, as the state after reset has them and as the reset step leaves them; an unspecified
STORE byte is a free value (log 3). -/
def Obligations.ResetLoadsEveryResetValue : Prop :=
  (State.reset.capacity = 0x00#8 ∧ State.reset.length = 0x00#8 ∧ State.reset.front = 0x00#8 ∧
    State.reset.back = 0x00#8 ∧ State.reset.storeBase = 0x0000#16 ∧ State.reset.constructed = false ∧
    State.reset.threshold = 0x00#8 ∧ State.reset.delim = 0x00#8 ∧ State.reset.rxState = .idle ∧
    State.reset.fault = 0b0000#4 ∧ State.reset.phase = .none ∧
    fullFlag State.reset = false ∧ emptyFlag State.reset = false ∧
    ∀ a, Memory.read State.reset.store a = Config.powerOnByte a) ∧
  (∀ s : State, clockEdge s = true → s.rst = true →
    ∃ t, step s = .next t ∧ SameRing State.reset t ∧ SameReceiver State.reset t ∧
      fullFlag t = false ∧ emptyFlag t = false ∧ SameStore s t ∧ t.responses = s.responses)

/-- R241. -/
def Obligations.ResetLeavesWhatIsOutsideTheBlock : Prop :=
  ∀ s : State, clockEdge s = true → s.rst = true →
    ∃ t, step s = .next t ∧ t.store = s.store ∧ t.constructed = false ∧ queue t = [] ∧
      SameStreams s t ∧ t.cfg = s.cfg

/-- `70_reset_and_hazards.md` section 1: while `rst == 1` every ready and valid output is 0, and the step presents
no response and makes no STORE access. That the words HOST offers stay offered through it is the model's reading of
R91 (log 12, DEDUCED). -/
def Obligations.OutputsAreQuietWhileInReset : Prop :=
  ∀ s : State, s.rst = true →
    cmdReady s = false ∧ srcReady s = false ∧ snkValid s = false ∧
    (clockEdge s = true → ∃ t, step s = .next t ∧ rspWord s t = none ∧ stWe s t = false ∧ stRe s t = false ∧
      t.commands = s.commands)

/-! ### Invariants and whole-machine rules -/

/-- `10_state.md` section 6: the invariants hold right after reset, whatever the environment offers and for
every value of the parameters. -/
def Obligations.InvariantHoldsAfterReset : Prop :=
  ∀ (cfg : Config) (rst ready : Bool) (commands : List CmdWord) (source : List SrcItem)
    (moves : List EnvMove),
    Coherent { State.reset with
      cfg := cfg, rst := rst, sinkReady := ready, commands := commands, source := source, moves := moves }

/-- `10_state.md` section 6: every step, of the block or of the environment, keeps the invariants. -/
def Obligations.EveryStepKeepsTheInvariant : Prop :=
  ∀ s t : State, Coherent s → step s = .next t → Coherent t

/-- `41_receiver_ops.md` section 2: the transition table is complete. -/
def Obligations.ReceiverStateMovesOnlyAsTheTableSays : Prop :=
  ∀ s t : State, Coherent s → step s = .next t → t.rxState ≠ s.rxState →
    (clockEdge s = true ∧ s.rst = true ∧ t.rxState = .idle) ∨
    (InPhase s .none ∧ s.commands.head? = some 0xB0000000#32 ∧ s.constructed = true ∧
      (s.rxState = .idle ∨ s.rxState = .completed ∨
        (s.rxState = .faulted ∧ s.cfg.faultPolicy = .restartable)) ∧
      0 < s.threshold.toNat ∧ s.threshold.toNat ≤ s.capacity.toNat ∧
      t.rxState = .receiving ∧ t.phase = .resume ∧ t.fault = 0#4 ∧ t.responses = s.responses) ∨
    (InPhase s .byte ∧ s.rxState = .receiving ∧
      (∃ it rest, s.source = it :: rest ∧ (it.clean = false ∨ s.length = s.capacity)) ∧
      t.rxState = .faulted ∧ t.phase = .none ∧ t.sink = s.sink) ∨
    (InPhase s .pause ∧ s.rxState = .receiving ∧ s.sinkReady = true ∧
      t.rxState = .completed ∧ t.phase = .none ∧ t.sink = s.sink ++ [s.cfg.pauseCode])

/-- `60_exceptions.md` section 2: under `FAULT_POLICY == Halt` only reset leaves Faulted, and the cause stays. -/
def Obligations.FaultedUnderHaltIsLeftOnlyByReset : Prop :=
  ∀ s t : State, Coherent s → s.rxState = .faulted → s.cfg.faultPolicy = .halt → step s = .next t →
    (t.rxState = .faulted ∧ t.fault = s.fault) ∨
    (clockEdge s = true ∧ s.rst = true ∧ t.rxState = .idle ∧ t.fault = 0#4)

/-- `10_state.md` section 2: `CONSTRUCTED` is set by a successful `CONSTRUCT` and cleared by reset, and by
nothing else. -/
def Obligations.ConstructedChangesOnlyByConstructAndReset : Prop :=
  ∀ s t : State, step s = .next t → t.constructed ≠ s.constructed →
    (clockEdge s = true ∧ s.rst = true ∧ t.constructed = false) ∨
    (∃ store capacity, Issues s (.construct store capacity) ∧ store ≠ 0x0000#16 ∧ capacity ≠ 0#8 ∧
      t.constructed = true)

/-- `10_state.md` section 2: what changes `LENGTH`, `FRONT` and `BACK`, and to what. -/
def Obligations.QueueRegistersMoveOnlyAsTheirRulesSay : Prop :=
  ∀ s t : State, Coherent s → step s = .next t →
    (t.length ≠ s.length →
      (clockEdge s = true ∧ s.rst = true ∧ t.length = 0#8) ∨
      (∃ store capacity, Issues s (.construct store capacity) ∧ t.length = 0#8) ∨
      ((∃ d, Issues s (.pushBack d) ∨ Issues s (.pushFront d)) ∧ t.length.toNat = s.length.toNat + 1) ∨
      (InPhase s .byte ∧ t.taken = s.taken + 1 ∧ t.length.toNat = s.length.toNat + 1) ∨
      ((Issues s .popBack ∨ Issues s .popFront) ∧ t.length.toNat + 1 = s.length.toNat)) ∧
    (t.front ≠ s.front →
      (clockEdge s = true ∧ s.rst = true ∧ t.front = 0#8) ∨
      (∃ store capacity, Issues s (.construct store capacity) ∧ t.front = 0#8) ∨
      (∃ d, Issues s (.pushFront d) ∧
        t.front.toNat = (s.front.toNat + s.capacity.toNat - 1) % s.capacity.toNat) ∨
      (Issues s .popFront ∧ t.front.toNat = (s.front.toNat + 1) % s.capacity.toNat)) ∧
    (t.back ≠ s.back →
      (clockEdge s = true ∧ s.rst = true ∧ t.back = 0#8) ∨
      (∃ store capacity, Issues s (.construct store capacity) ∧ t.back = 0#8) ∨
      (((∃ d, Issues s (.pushBack d)) ∨ (InPhase s .byte ∧ t.taken = s.taken + 1)) ∧
        t.back.toNat = (s.back.toNat + 1) % s.capacity.toNat) ∨
      (Issues s .popBack ∧ t.back.toNat = (s.back.toNat + s.capacity.toNat - 1) % s.capacity.toNat))

/-- `10_state.md` section 8, the register columns: a command and a sequencer step change no register their row
does not mark `w`, reset writes every register, and a command and a sequencer step do not depend on a register their
row does not mark `r`: with another value in it everything else comes out the same, and it keeps that value or, if the
row marks it `w`, is overwritten with the same one. -/
def Obligations.RegistersAreAccessedOnlyAsTheTableSays : Prop :=
  (∀ (i : Instr) (s t : State) (r : RegName), exec i s = .next t → r ∉ mayWrite i → sameReg r s t) ∧
  (∀ (p : Phase) (s : State) (r : RegName), r ∉ seqMayWrite p → sameReg r s (seqStep p s)) ∧
  (∀ (s : State) (r : RegName), clockEdge s = true → s.rst = true →
    ∃ t, step s = .next t ∧ sameReg r State.reset t) ∧
  (∀ (i : Instr) (s o t : State) (r : RegName), r ∉ mayRead i → exec i s = .next t →
    exec i (copyReg r o s) = .next (copyReg r o t) ∨
      (r ∈ mayWrite i ∧ exec i (copyReg r o s) = .next t)) ∧
  (∀ (p : Phase) (s o : State) (r : RegName), r ∉ seqMayRead p →
    seqStep p (copyReg r o s) = copyReg r o (seqStep p s) ∨
      (r ∈ seqMayWrite p ∧ seqStep p (copyReg r o s) = seqStep p s))

/-- R213: a step that answers with a status other than `Ok` changes nothing, but for the end of a session that
faulted, whose effects stand. -/
def Obligations.FailureHasNoSideEffects : Prop :=
  ∀ (s t : State) (r : RspWord), step s = .next t → t.responses = s.responses ++ [r] →
    statusOf r ≠ 0x0#4 →
    (s.phase = .none ∧ OnlyAnswered (commandTaken s) t) ∨
    (s.phase = .byte ∧ statusOf r = 0x9#4 ∧ t.rxState = .faulted ∧ r = 0x90#8 ++ (0#4 ++ t.fault) ∧
      SameRing s t ∧ SameStore s t ∧ t.sink = s.sink)

/-- `30_encoding.md` section 3: bits 11:8 of every response are zero, and its status is one of the codes
0x0 to 0x9 and 0xF. -/
def Obligations.EveryResponseHasTheOneFormat : Prop :=
  ∀ (s t : State) (r : RspWord), step s = .next t → t.responses = s.responses ++ [r] →
    r.extractLsb' 8 4 = 0#4 ∧ ((statusOf r).toNat ≤ 9 ∨ statusOf r = 0xF#4)

/-! ### The ports -/

/-- `30_encoding.md` section 1: a command is taken exactly at a transfer; in a session none is taken, and no
response is presented before the session ends. -/
def Obligations.CommandsAreTakenOneAtATime : Prop :=
  ∀ s t : State, step s = .next t →
    (cmdTransfer s = true → t.commands = s.commands.tail) ∧
    (cmdTransfer s = false → ∃ more, t.commands = s.commands ++ more) ∧
    (cmdReady s = true ↔ s.phase = .none ∧ s.rst = false) ∧
    (s.phase ≠ .none → cmdTransfer s = false ∧ (t.phase ≠ .none → t.responses = s.responses))

/-- `20_memory.md` section 2: an item is taken exactly at a source transfer, the first one offered; outside
`PH_BYTE` none is. -/
def Obligations.ItemsAreTakenExactlyAtASourceTransfer : Prop :=
  ∀ s t : State, step s = .next t →
    (srcTransfer s = true → ∃ it rest, s.source = it :: rest ∧ t.source = rest ∧ t.taken = s.taken + 1) ∧
    (srcTransfer s = false → t.taken = s.taken ∧ ∃ more, t.source = s.source ++ more) ∧
    (s.phase ≠ .byte → srcReady s = false)

/-- `20_memory.md` section 2: a byte reaches the sink exactly at a sink transfer, and it is `RESUME_CODE` in
`PH_RESUME` and `PAUSE_CODE` in `PH_PAUSE`. -/
def Obligations.OnlyControlBytesReachTheSink : Prop :=
  ∀ s t : State, step s = .next t →
    (snkTransfer s = true →
      (s.phase = .resume ∧ t.sink = s.sink ++ [s.cfg.resumeCode]) ∨
      (s.phase = .pause ∧ t.sink = s.sink ++ [s.cfg.pauseCode])) ∧
    (snkTransfer s = false → t.sink = s.sink) ∧
    (snkValid s = true → s.phase = .resume → snkData s = some s.cfg.resumeCode) ∧
    (snkValid s = true → s.phase = .pause → snkData s = some s.cfg.pauseCode)

/-- `60_exceptions.md` section 3: outside the phases that look at them, what SOURCE offers and whether SINK is
ready have no effect on the block. -/
def Obligations.InputsAreLookedAtOnlyInTheirPhases : Prop :=
  (∀ (s t : State) (items : List SrcItem), clockEdge s = true → srcReady s = false → step s = .next t →
    t.source = s.source ∧ step { s with source := items } = .next { t with source := items }) ∧
  (∀ (s t : State) (ready : Bool), clockEdge s = true → snkValid s = false → step s = .next t →
    t.sinkReady = s.sinkReady ∧ step { s with sinkReady := ready } = .next { t with sinkReady := ready })

/-! ### STORE -/

/-- `20_memory.md` section 2: a read returns the latest byte written to the address by the block or by HOST, has
no side effect, and inside the borrowed region never meets an address that nothing has written. -/
def Obligations.StoreReadsTheLatestWrite : Prop :=
  ∀ (s t : State) (a : Addr), step s = .next t →
    (∀ v rest, s.moves = .hostWrite a v :: rest → Memory.read t.store a = v) ∧
    (∀ v, t.accesses = s.accesses ++ [.write a v] → Memory.read t.store a = v) ∧
    ((∀ v rest, s.moves ≠ .hostWrite a v :: rest) → (∀ v, t.accesses ≠ s.accesses ++ [.write a v]) →
      Memory.read t.store a = Memory.read s.store a) ∧
    (∀ v, t.accesses = s.accesses ++ [.read a v] →
      v = Memory.read s.store a ∧ t.store = s.store ∧
        (Coherent s → ∃ w, Memory.get? a.toNat s.store = some w))

/-- `20_memory.md` section 1: the block reads and writes no STORE address outside the borrowed region, and no
other byte changes but by HOST's own write. -/
def Obligations.StoreIsTouchedOnlyInTheBorrowedRegion : Prop :=
  ∀ s t : State, Coherent s → step s = .next t →
    (∀ a v, t.accesses = s.accesses ++ [.read a v] → inRegion s a) ∧
    (∀ a v, t.accesses = s.accesses ++ [.write a v] → inRegion s a) ∧
    (∀ a, Memory.read t.store a ≠ Memory.read s.store a →
      (inRegion s a ∧ ∃ v, t.accesses = s.accesses ++ [.write a v]) ∨
      ∃ v rest, s.moves = .hostWrite a v :: rest)

/-- R64: how many STORE accesses each command and sequencer step makes, of which kind and at which slot. -/
def Obligations.StoreAccessesAreCounted : Prop :=
  (∀ (i : Instr) (s t : State), exec i s = .next t →
    (∀ a v, (∃ d, t.responses = s.responses ++ [okWord d]) → slotWritten i s = some (a, v) →
      WroteOne s t a v) ∧
    (∀ a, (∃ d, t.responses = s.responses ++ [okWord d]) → slotRead i s = some a → ReadOne s t a) ∧
    ((¬ ∃ d, t.responses = s.responses ++ [okWord d]) ∨ (slotWritten i s = none ∧ slotRead i s = none) →
      SameStore s t)) ∧
  (∀ s : State, SameStore s (seqResume s) ∧ SameStore s (seqPause s)) ∧
  (∀ (s : State) (it : SrcItem) (rest : List SrcItem), s.source = it :: rest →
    (it.clean = true ∧ s.length ≠ s.capacity → WroteOne s (seqByte s) (slot s.storeBase s.back) it.data) ∧
    (it.clean = false ∨ s.length = s.capacity → SameStore s (seqByte s)))

/-- `70_reset_and_hazards.md` section 3: HOST's own write (a move at any time, the model's reading, log 9) never
changes a register, and outside the borrowed region it leaves the queue as it is. -/
def Obligations.HostWriteNeverReachesTheRegisters : Prop :=
  ∀ (s : State) (a : Addr) (v : Byte) (rest : List EnvMove), s.moves = .hostWrite a v :: rest →
    ∃ t, step s = .next t ∧ SameRing s t ∧ SameReceiver s t ∧ t.accesses = s.accesses ∧
      Memory.read t.store a = v ∧ (Coherent s → ¬ inRegion s a → queue t = queue s)

/-! ### Ring buffer commands: what each does when it succeeds, and what it leaves alone -/

/-- `40_ringbuffer_ops.md` section 2, `CONSTRUCT` succeeding. -/
def Obligations.ConstructMakesAnEmptyQueue : Prop :=
  ∀ (store : Addr) (capacity : Byte) (s : State), capacity ≠ 0#8 → store ≠ 0x0000#16 →
    ∃ t, exec (.construct store capacity) s = .next t ∧ Answered s t 0x0000#16 ∧
      t.capacity = capacity ∧ t.length = 0#8 ∧ t.front = 0#8 ∧ t.back = 0#8 ∧ t.storeBase = store ∧
      t.constructed = true ∧ emptyFlag t = true ∧ fullFlag t = false ∧ queue t = [] ∧
      t.pushed = [] ∧ t.hostKept = true ∧
      SameReceiver s t ∧ SameStore s t ∧ SameStreams s t ∧ SameEnvironment s t

/-- R211: the two construction errors, capacity first, and nothing changed by either. -/
def Obligations.ConstructErrorsAreReportedInOrder : Prop :=
  (∀ (store : Addr) (s : State), ∃ t, exec (.construct store 0#8) s = .next t ∧
    Answered s t 0x2000#16 ∧ OnlyAnswered s t) ∧
  (∀ (capacity : Byte) (s : State), capacity ≠ 0#8 →
    ∃ t, exec (.construct 0x0000#16 capacity) s = .next t ∧ Answered s t 0x1000#16 ∧ OnlyAnswered s t)

/-- R130. -/
def Obligations.NotConstructedIsTestedFirst : Prop :=
  ∀ (s : State) (d : Byte), s.constructed = false →
    (∀ i ∈ [Instr.pushBack d, .pushFront d, .isFull, .isEmpty],
      ∃ t, exec i s = .next t ∧ Answered s t 0x5000#16 ∧ OnlyAnswered s t) ∧
    (∀ i ∈ [Instr.popBack, .popFront, .peekFront, .peekBack],
      ∃ (t : State) (free : Byte), exec i s = .next t ∧ t.responses = s.responses ++ [0x50#8 ++ free] ∧ OnlyAnswered s t)

/-- R212: `Full` and `Empty`, with nothing changed; the data of an `Empty` answer is any byte. -/
def Obligations.FullAndEmptyChangeNothing : Prop :=
  (∀ (s : State) (d : Byte), s.constructed = true → s.length = s.capacity →
    ∀ i ∈ [Instr.pushBack d, .pushFront d],
      ∃ t, exec i s = .next t ∧ Answered s t 0x3000#16 ∧ OnlyAnswered s t) ∧
  (∀ s : State, s.constructed = true → s.length = 0#8 →
    ∀ i ∈ [Instr.popBack, .popFront, .peekFront, .peekBack],
      ∃ (t : State) (free : Byte), exec i s = .next t ∧ t.responses = s.responses ++ [0x40#8 ++ free] ∧ OnlyAnswered s t)

/-- `40_ringbuffer_ops.md` section 3, `PUSH_BACK` succeeding: write, then advance. -/
def Obligations.PushBackWritesThenAdvances : Prop :=
  ∀ (data : Byte) (s : State), s.constructed = true → s.length.toNat < s.capacity.toNat →
    ∃ t, exec (.pushBack data) s = .next t ∧ Answered s t 0x0000#16 ∧
      WroteOne s t (slot s.storeBase s.back) data ∧
      t.back.toNat = (s.back.toNat + 1) % s.capacity.toNat ∧ t.length.toNat = s.length.toNat + 1 ∧
      t.capacity = s.capacity ∧ t.front = s.front ∧ t.storeBase = s.storeBase ∧
      t.constructed = s.constructed ∧ emptyFlag t = false ∧
      (fullFlag t = true ↔ s.length.toNat + 1 = s.capacity.toNat) ∧
      SameReceiver s t ∧ SameStreams s t ∧ SameEnvironment s t

/-- `40_ringbuffer_ops.md` section 3, `PUSH_FRONT` succeeding: retreat, then write at the new `FRONT`. -/
def Obligations.PushFrontRetreatsThenWrites : Prop :=
  ∀ (data : Byte) (s : State), s.constructed = true → s.length.toNat < s.capacity.toNat →
    ∃ t, exec (.pushFront data) s = .next t ∧ Answered s t 0x0000#16 ∧
      WroteOne s t (slot s.storeBase (retreat s.capacity s.front)) data ∧
      t.front = retreat s.capacity s.front ∧
      t.front.toNat = (s.front.toNat + s.capacity.toNat - 1) % s.capacity.toNat ∧
      t.length.toNat = s.length.toNat + 1 ∧
      t.capacity = s.capacity ∧ t.back = s.back ∧ t.storeBase = s.storeBase ∧
      t.constructed = s.constructed ∧ emptyFlag t = false ∧
      (fullFlag t = true ↔ s.length.toNat + 1 = s.capacity.toNat) ∧
      SameReceiver s t ∧ SameStreams s t ∧ SameEnvironment s t

/-- `40_ringbuffer_ops.md` section 4, `POP_BACK` succeeding: retreat, then read at the new `BACK`. -/
def Obligations.PopBackRetreatsThenReads : Prop :=
  ∀ s : State, s.constructed = true → s.length ≠ 0#8 → s.length.toNat ≤ s.capacity.toNat →
    ∃ t, exec .popBack s = .next t ∧ Answered s t (okWord (Memory.read s.store (slot s.storeBase t.back))) ∧
      ReadOne s t (slot s.storeBase (retreat s.capacity s.back)) ∧ t.back = retreat s.capacity s.back ∧
      t.back.toNat = (s.back.toNat + s.capacity.toNat - 1) % s.capacity.toNat ∧
      t.length.toNat + 1 = s.length.toNat ∧
      t.capacity = s.capacity ∧ t.front = s.front ∧ t.storeBase = s.storeBase ∧
      t.constructed = s.constructed ∧ fullFlag t = false ∧
      (emptyFlag t = true ↔ s.length.toNat = 1) ∧
      SameReceiver s t ∧ SameStreams s t ∧ SameEnvironment s t

/-- `40_ringbuffer_ops.md` section 4, `POP_FRONT` succeeding: read at the old `FRONT`, then advance. -/
def Obligations.PopFrontReadsThenAdvances : Prop :=
  ∀ s : State, s.constructed = true → s.length ≠ 0#8 → s.length.toNat ≤ s.capacity.toNat →
    ∃ t, exec .popFront s = .next t ∧ Answered s t (okWord (Memory.read s.store (slot s.storeBase s.front))) ∧
      ReadOne s t (slot s.storeBase s.front) ∧
      t.front.toNat = (s.front.toNat + 1) % s.capacity.toNat ∧ t.length.toNat + 1 = s.length.toNat ∧
      t.capacity = s.capacity ∧ t.back = s.back ∧ t.storeBase = s.storeBase ∧
      t.constructed = s.constructed ∧ fullFlag t = false ∧
      (emptyFlag t = true ↔ s.length.toNat = 1) ∧
      SameReceiver s t ∧ SameStreams s t ∧ SameEnvironment s t

/-- `40_ringbuffer_ops.md` section 5: `IS_FULL` and `IS_EMPTY` answer by `LENGTH` alone and change nothing. -/
def Obligations.PredicatesAnswerByLengthAlone : Prop :=
  ∀ s : State, s.constructed = true →
    (∃ t, exec .isFull s = .next t ∧
      Answered s t (if s.length = s.capacity then 0x0001#16 else 0x0000#16) ∧ OnlyAnswered s t) ∧
    (∃ t, exec .isEmpty s = .next t ∧
      Answered s t (if s.length = 0#8 then 0x0001#16 else 0x0000#16) ∧ OnlyAnswered s t)

/-- `40_ringbuffer_ops.md` section 6: a peek answers the byte the next pop at that end would answer, and moves
nothing. -/
def Obligations.PeeksAnswerWhatThePopWould : Prop :=
  ∀ s : State, s.constructed = true → s.length ≠ 0#8 → s.length.toNat ≤ s.capacity.toNat →
    (∃ t u, exec .peekFront s = .next t ∧ exec .popFront s = .next u ∧ t.responses = u.responses ∧
      Answered s t (okWord (Memory.read s.store (slot s.storeBase s.front))) ∧
      ReadOne s t (slot s.storeBase s.front) ∧ SameRing s t ∧ SameReceiver s t ∧ SameStreams s t ∧
      SameEnvironment s t) ∧
    (∃ t u, exec .peekBack s = .next t ∧ exec .popBack s = .next u ∧ t.responses = u.responses ∧
      Answered s t (okWord (Memory.read s.store (slot s.storeBase (retreat s.capacity s.back)))) ∧
      ReadOne s t (slot s.storeBase (retreat s.capacity s.back)) ∧ SameRing s t ∧ SameReceiver s t ∧
      SameStreams s t ∧ SameEnvironment s t)

/-- R140. -/
def Obligations.IndexStepsWrapAndInvert : Prop :=
  ∀ c i : Byte, 1 ≤ c.toNat → i.toNat < c.toNat →
    (advance c i).toNat = (i.toNat + 1) % c.toNat ∧
    (i.toNat + 1 < c.toNat → (advance c i).toNat = i.toNat + 1) ∧
    (i.toNat + 1 = c.toNat → (advance c i).toNat = 0) ∧
    (retreat c i).toNat = (i.toNat + c.toNat - 1) % c.toNat ∧
    (0 < i.toNat → (retreat c i).toNat = i.toNat - 1) ∧
    (i.toNat = 0 → (retreat c i).toNat = c.toNat - 1) ∧
    advance c (retreat c i) = i ∧ retreat c (advance c i) = i ∧
    (c.toNat = 1 → advance c i = 0#8 ∧ retreat c i = 0#8) ∧
    (advance c i).toNat < c.toNat ∧ (retreat c i).toNat < c.toNat

/-- `40_ringbuffer_ops.md` section 8: each command on the queue as a list; `RX_START`, of which R142 does not speak,
leaves it whether accepted or turned away (R37: it writes no ring register and no STORE byte). -/
def Obligations.CommandsActOnTheQueueAsAList : Prop :=
  ∀ s : State, Coherent s → s.constructed = true →
    (queue s).length = s.length.toNat ∧
    ((queue s).length < s.capacity.toNat → ∀ d,
      (∃ t, exec (.pushBack d) s = .next t ∧ Answered s t 0x0000#16 ∧ queue t = queue s ++ [d]) ∧
      (∃ t, exec (.pushFront d) s = .next t ∧ Answered s t 0x0000#16 ∧ queue t = d :: queue s)) ∧
    ((queue s).length = s.capacity.toNat → ∀ d,
      (∃ t, exec (.pushBack d) s = .next t ∧ Answered s t 0x3000#16 ∧ queue t = queue s) ∧
      (∃ t, exec (.pushFront d) s = .next t ∧ Answered s t 0x3000#16 ∧ queue t = queue s)) ∧
    (∀ q v, queue s = q ++ [v] →
      (∃ t, exec .popBack s = .next t ∧ Answered s t (okWord v) ∧ queue t = q) ∧
      (∃ t, exec .peekBack s = .next t ∧ Answered s t (okWord v) ∧ queue t = queue s)) ∧
    (∀ v q, queue s = v :: q →
      (∃ t, exec .popFront s = .next t ∧ Answered s t (okWord v) ∧ queue t = q) ∧
      (∃ t, exec .peekFront s = .next t ∧ Answered s t (okWord v) ∧ queue t = queue s)) ∧
    (queue s = [] → ∀ i ∈ [Instr.popBack, .popFront, .peekFront, .peekBack],
      ∃ (t : State) (free : Byte), exec i s = .next t ∧ t.responses = s.responses ++ [0x40#8 ++ free] ∧ queue t = []) ∧
    (∀ store capacity t, exec (.construct store capacity) s = .next t →
      (Answered s t 0x0000#16 → queue t = []) ∧ (¬ Answered s t 0x0000#16 → queue t = queue s)) ∧
    (∀ n th dl, ∀ i ∈ [Instr.isFull, .isEmpty, .rdreg n, .rxConfig th dl],
      ∃ t, exec i s = .next t ∧ queue t = queue s) ∧
    (∃ t, exec .rxStart s = .next t ∧ queue t = queue s)

/-- `40_ringbuffer_ops.md` section 8, property P3. -/
def Obligations.PushThenPopAtOneEndRoundTrips : Prop :=
  ∀ (s : State) (x : Byte), Coherent s → s.constructed = true → s.length.toNat < s.capacity.toNat →
    (∃ t u, exec (.pushBack x) s = .next t ∧ exec .popBack t = .next u ∧
      u.responses = t.responses ++ [okWord x] ∧ SameRing s u ∧ SameReceiver s u ∧ queue u = queue s ∧
      ∀ a, a ≠ slot s.storeBase s.back → Memory.read u.store a = Memory.read s.store a) ∧
    (∃ t u, exec (.pushFront x) s = .next t ∧ exec .popFront t = .next u ∧
      u.responses = t.responses ++ [okWord x] ∧ SameRing s u ∧ SameReceiver s u ∧ queue u = queue s ∧
      ∀ a, a ≠ slot s.storeBase (retreat s.capacity s.front) →
        Memory.read u.store a = Memory.read s.store a)

/-- `40_ringbuffer_ops.md` section 8, properties P4 and P5: from an empty queue at any index position, bytes
pushed at one end come out in order at the other and in reverse order at the same end. -/
def Obligations.QueueIsFifoAcrossAndLifoAtOneEnd : Prop :=
  ∀ (s : State) (xs : List Byte), Coherent s → s.constructed = true → s.length = 0#8 →
    xs.length ≤ s.capacity.toNat →
    (∃ t u, execAll (xs.map .pushBack) s = some t ∧
      execAll (List.replicate xs.length .popFront) t = some u ∧
      u.responses = t.responses ++ xs.map okWord) ∧
    (∃ t u, execAll (xs.map .pushFront) s = some t ∧
      execAll (List.replicate xs.length .popBack) t = some u ∧
      u.responses = t.responses ++ xs.map okWord) ∧
    (∃ t u, execAll (xs.map .pushBack) s = some t ∧
      execAll (List.replicate xs.length .popBack) t = some u ∧
      u.responses = t.responses ++ xs.reverse.map okWord) ∧
    (∃ t u, execAll (xs.map .pushFront) s = some t ∧
      execAll (List.replicate xs.length .popFront) t = some u ∧
      u.responses = t.responses ++ xs.reverse.map okWord)

/-! ### Receiver commands -/

/-- `41_receiver_ops.md` section 1, `RX_CONFIG`: it loads both registers, in every state, and always succeeds. -/
def Obligations.RxConfigLoadsThresholdAndDelimiter : Prop :=
  ∀ (threshold delimiter : Byte) (s : State),
    ∃ t, exec (.rxConfig threshold delimiter) s = .next t ∧ Answered s t 0x0000#16 ∧
      t.threshold = threshold ∧ t.delim = delimiter ∧
      t.rxState = s.rxState ∧ t.fault = s.fault ∧ t.phase = s.phase ∧
      SameRing s t ∧ SameStore s t ∧ SameRecord s t ∧ SameStreams s t ∧ SameEnvironment s t

/-- `41_receiver_ops.md` section 1, `RX_START` accepted: a session starts and no response is given yet. -/
def Obligations.RxStartBeginsASession : Prop :=
  ∀ s : State, s.constructed = true → (s.rxState = .faulted → s.cfg.faultPolicy = .restartable) →
    0 < s.threshold.toNat → s.threshold.toNat ≤ s.capacity.toNat →
    ∃ t, exec .rxStart s = .next t ∧ t.rxState = .receiving ∧ t.fault = 0b0000#4 ∧ t.phase = .resume ∧
      t.threshold = s.threshold ∧ t.delim = s.delim ∧ t.responses = s.responses ∧ t.draws = s.draws ∧
      SameRing s t ∧ SameStore s t ∧ SameRecord s t ∧ SameStreams s t ∧ SameEnvironment s t

/-- `60_exceptions.md` section 4: `RX_START` turned away answers `NotConstructed`, then `Halted`, then
`BadThreshold`, and changes nothing. -/
def Obligations.RxStartErrorsAreReportedInOrder : Prop :=
  ∀ s : State,
    (s.constructed = false →
      ∃ t, exec .rxStart s = .next t ∧ Answered s t 0x5000#16 ∧ OnlyAnswered s t) ∧
    (s.constructed = true → s.rxState = .faulted → s.cfg.faultPolicy = .halt →
      ∃ t, exec .rxStart s = .next t ∧ Answered s t 0x7000#16 ∧ OnlyAnswered s t) ∧
    (s.constructed = true → ¬ (s.rxState = .faulted ∧ s.cfg.faultPolicy = .halt) →
      (s.threshold = 0#8 ∨ s.capacity.toNat < s.threshold.toNat) →
      ∃ t, exec .rxStart s = .next t ∧ Answered s t 0x6000#16 ∧ OnlyAnswered s t)

/-- `41_receiver_ops.md` section 1 and the register numbers of `10_state.md` section 9: `RDREG` answers every
register by number, `BadRegister` from 0x0C on, and changes nothing. -/
def Obligations.RdregAnswersEveryRegister : Prop :=
  ∀ s : State,
    (∀ p ∈ [(0x00#8, s.capacity), (0x01#8, s.length), (0x02#8, s.front), (0x03#8, s.back),
        (0x04#8, BitVec.ofNat 8 (s.storeBase.toNat % 256)),
        (0x05#8, BitVec.ofNat 8 (s.storeBase.toNat / 256)),
        (0x06#8, s.threshold), (0x07#8, s.delim), (0x08#8, statusByte s),
        (0x09#8, BitVec.ofNat 8 s.fault.toNat), (0x0A#8, s.cfg.resumeCode), (0x0B#8, s.cfg.pauseCode)],
      ∃ t, exec (.rdreg p.1) s = .next t ∧ Answered s t (okWord p.2) ∧ OnlyAnswered s t) ∧
    (∀ n : Byte, 0x0C ≤ n.toNat →
      ∃ t, exec (.rdreg n) s = .next t ∧ Answered s t 0x8000#16 ∧ OnlyAnswered s t)

/-- R41, with the encoding of `STATE` (`10_state.md` section 2) and what the status wires show of any state, also
in a session (`30_encoding.md` section 1). -/
def Obligations.StatusRegisterLayout : Prop :=
  (∀ s : State,
    (statusByte s).getLsbD 0 = s.constructed ∧
    (statusByte s).getLsbD 1 = (s.constructed && decide (s.length = s.capacity)) ∧
    (statusByte s).getLsbD 2 = (s.constructed && decide (s.length = 0#8)) ∧
    (statusByte s).getLsbD 3 = false ∧
    (statusByte s).extractLsb' 4 2 = rxStateWire s ∧
    (statusByte s).extractLsb' 6 2 = 0#2) ∧
  (∀ s : State, Coherent s → cmdReady s = true →
    ∃ t, exec (.rdreg 0x08#8) s = .next t ∧ Answered s t (okWord (statusByte s)) ∧
      (statusByte s).extractLsb' 4 2 ≠ 1#2) ∧
  (∀ s : State,
    (s.rxState = .idle → rxStateWire s = 0#2) ∧ (s.rxState = .receiving → rxStateWire s = 1#2) ∧
    (s.rxState = .completed → rxStateWire s = 2#2) ∧ (s.rxState = .faulted → rxStateWire s = 3#2) ∧
    fullWire s = (s.constructed && decide (s.length = s.capacity)) ∧
    emptyWire s = (s.constructed && decide (s.length = 0#8)) ∧ rxFaultWire s = s.fault)

/-! ### The receive sequencer and receive faults -/

/-- `41_receiver_ops.md` section 2, `SEQ_RESUME`: no item is taken before the resume byte is handed over. Two things
are the model's: with SINK not ready there is a waiting step (log 7), and `snk_ready` stays after the transfer
(log 19). -/
def Obligations.ResumeByteOpensTheSession : Prop :=
  ∀ s : State, InPhase s .resume →
    srcReady s = false ∧
    (s.sinkReady = true → ∃ t, step s = .next t ∧ t.sink = s.sink ++ [s.cfg.resumeCode] ∧ t.phase = .byte ∧
      t.rxState = s.rxState ∧ t.fault = s.fault ∧ t.threshold = s.threshold ∧ t.delim = s.delim ∧
      SameRing s t ∧ SameStore s t ∧ SameRecord s t ∧ t.source = s.source ∧ t.taken = s.taken ∧
      t.responses = s.responses ∧ t.draws = s.draws ∧ SameEnvironment { s with moves := s.moves.tail } t) ∧
    (s.sinkReady = false → step s = .next { s with moves := s.moves.tail })

/-- `41_receiver_ops.md` section 2, `SEQ_BYTE` with a byte that is pushed: the push is that of `PUSH_BACK`, and
the session goes on unless the delimiter detector or the threshold comparator stops it. In a session the ring
buffer is constructed (INV9). -/
def Obligations.ByteIsPushedAndStopsAreDetected : Prop :=
  ∀ (s : State) (it : SrcItem) (rest : List SrcItem), InPhase s .byte → s.source = it :: rest →
    it.clean = true → s.constructed = true → s.length.toNat < s.capacity.toNat →
    ∃ t u, step s = .next t ∧ exec (.pushBack it.data) s = .next u ∧ SameRing u t ∧ t.store = u.store ∧
      WroteOne s t (slot s.storeBase s.back) it.data ∧
      t.back.toNat = (s.back.toNat + 1) % s.capacity.toNat ∧ t.length.toNat = s.length.toNat + 1 ∧
      t.front = s.front ∧ t.capacity = s.capacity ∧ t.storeBase = s.storeBase ∧
      t.constructed = s.constructed ∧ t.source = rest ∧ t.taken = s.taken + 1 ∧
      t.phase = (if it.data = s.delim ∨ s.threshold.toNat ≤ s.length.toNat + 1 then .pause else .byte) ∧
      t.rxState = s.rxState ∧ t.fault = s.fault ∧ t.threshold = s.threshold ∧ t.delim = s.delim ∧
      t.sink = s.sink ∧ t.responses = s.responses ∧ t.draws = s.draws ∧
      SameEnvironment { s with moves := s.moves.tail } t

/-- R215: a diagnostic, or else a full buffer, faults the session: the cause is latched and answered,
the byte is dropped, nothing else changes, nothing is emitted and the block can take a command again; and
nothing else raises a receive fault. -/
def Obligations.ReceiveFaultEntry : Prop :=
  (∀ (s : State) (it : SrcItem) (rest : List SrcItem), InPhase s .byte → s.source = it :: rest →
    it.clean = false ∨ s.length = s.capacity →
    ∃ t, step s = .next t ∧
      t.fault.getLsbD 0 = it.perr ∧ t.fault.getLsbD 1 = it.ferr ∧ t.fault.getLsbD 2 = it.oerr ∧
      t.fault.getLsbD 3 = it.clean ∧ rxFaultWire t = t.fault ∧
      t.rxState = .faulted ∧ t.phase = .none ∧ Answered s t (0x90#8 ++ (0#4 ++ t.fault)) ∧
      t.source = rest ∧ t.taken = s.taken + 1 ∧ t.sink = s.sink ∧ t.threshold = s.threshold ∧
      t.delim = s.delim ∧ SameRing s t ∧ SameStore s t ∧ SameRecord s t ∧ cmdReady t = true ∧ srcReady t = false ∧
      snkValid t = false ∧ SameEnvironment { s with moves := s.moves.tail } t) ∧
  (∀ s t : State, Coherent s → step s = .next t → t.fault ≠ s.fault → t.fault ≠ 0#4 →
    InPhase s .byte ∧ s.rxState = .receiving)

/-- `41_receiver_ops.md` section 2, `SEQ_PAUSE`: the pause byte, then Completed and the one response owed. Two things
are the model's: with SINK not ready there is a waiting step (log 7), and `snk_ready` stays after the transfer
(log 19). -/
def Obligations.PauseByteCompletesTheSession : Prop :=
  ∀ s : State, InPhase s .pause →
    (s.sinkReady = true → ∃ t, step s = .next t ∧ t.sink = s.sink ++ [s.cfg.pauseCode] ∧
      t.rxState = .completed ∧ t.phase = .none ∧ Answered s t 0x0000#16 ∧
      t.fault = s.fault ∧ t.threshold = s.threshold ∧ t.delim = s.delim ∧
      SameRing s t ∧ SameStore s t ∧ SameRecord s t ∧ t.source = s.source ∧ t.taken = s.taken ∧
      SameEnvironment { s with moves := s.moves.tail } t) ∧
    (s.sinkReady = false → step s = .next { s with moves := s.moves.tail })

/-- `41_receiver_ops.md` section 3: a whole session that nothing disturbs, from the offer of `RX_START` to its
response. The items `before` go on, the item `last` ends it; faulted if it carries a diagnostic or meets a full
buffer, else completed. That SINK, once ready, is ready for both control bytes is the model's reading: `snk_ready` is a
level that stays (log 19). -/
def Obligations.SessionEndsAtTheFirstStoppingItem : Prop :=
  ∀ (s : State) (before : List SrcItem) (last : SrcItem) (rest : List SrcItem),
    Coherent s → Undisturbed s → Issues s .rxStart →
    s.constructed = true → (s.rxState = .faulted → s.cfg.faultPolicy = .restartable) →
    0 < s.threshold.toNat → s.threshold.toNat ≤ s.capacity.toNat →
    s.source = before ++ last :: rest →
    (∀ (j : Nat) (h : j < before.length),
      goesOn s.length.toNat s.threshold.toNat s.capacity.toNat s.delim j before[j]) →
    ¬ goesOn s.length.toNat s.threshold.toNat s.capacity.toNat s.delim before.length last →
    ((last.clean = false ∨ s.length.toNat + before.length = s.capacity.toNat) →
      ∃ t, Runs (before.length + 3) s t ∧ t.rxState = .faulted ∧ t.phase = .none ∧
        t.sink = s.sink ++ [s.cfg.resumeCode] ∧ queue t = queue s ++ before.map (·.data) ∧
        t.length.toNat = s.length.toNat + before.length ∧
        t.fault = (if last.clean then 0b1000#4 else diagnosticMask last) ∧
        t.responses = s.responses ++ [0x9000#16 + t.fault.setWidth 16] ∧
        t.taken = s.taken + before.length + 1 ∧ t.source = rest) ∧
    (last.clean = true ∧ s.length.toNat + before.length ≠ s.capacity.toNat →
      ∃ t, Runs (before.length + 4) s t ∧ t.rxState = .completed ∧ t.phase = .none ∧
        t.sink = s.sink ++ [s.cfg.resumeCode, s.cfg.pauseCode] ∧
        queue t = queue s ++ before.map (·.data) ++ [last.data] ∧
        t.length.toNat = s.length.toNat + before.length + 1 ∧
        t.responses = s.responses ++ [0x0000#16] ∧
        t.taken = s.taken + before.length + 1 ∧ t.source = rest)

/-- `41_receiver_ops.md` section 3: a session that starts below capacity never faults with `BufferFull`, whatever the
schedule does in it; one that starts full faults at its first item; one that starts at or above the threshold takes
one item and completes; one that starts below takes at most the difference. -/
def Obligations.BufferFullOnlyWhenTheSessionStartsFull : Prop :=
  (∀ s t : State, Coherent s → BelowCapacity s → InOneSession s t →
    t.fault.getLsbD 3 = false ∧
    (s.threshold.toNat ≤ s.length.toNat → t.taken ≤ s.taken + 1) ∧
    (s.length.toNat < s.threshold.toNat →
      t.taken + s.length.toNat ≤ s.taken + s.threshold.toNat)) ∧
  (∀ (s : State) (it : SrcItem) (rest : List SrcItem), InPhase s .byte → s.source = it :: rest →
    s.length = s.capacity →
    ∃ t, step s = .next t ∧ t.rxState = .faulted ∧ t.taken = s.taken + 1 ∧
      t.fault = (if it.clean then 0b1000#4 else diagnosticMask it)) ∧
  (∀ (s : State) (it : SrcItem) (rest : List SrcItem), InPhase s .byte → s.source = it :: rest →
    it.clean = true → s.threshold.toNat ≤ s.length.toNat → s.length.toNat < s.capacity.toNat →
    ∃ t, step s = .next t ∧ t.phase = .pause ∧ t.rxState = s.rxState ∧ t.taken = s.taken + 1 ∧
      ∀ v, InOneSession t v → v.taken = s.taken + 1 ∧
        (v.phase = .pause ∨ (v.phase = .none ∧ (v.rxState = .completed ∨ v.rxState = .idle))) ∧
        (InPhase v .pause → v.sinkReady = true →
          ∃ w, step v = .next w ∧ w.rxState = .completed ∧ w.taken = s.taken + 1))

/-- `41_receiver_ops.md` section 3, one step, of the block or of the environment: in a session with room for a byte
no step raises `BufferFull`, and while the session has not stopped there is room again. -/
def Obligations.RoomIsKeptUntilTheSessionStops : Prop :=
  ∀ s t : State, Coherent s → BelowCapacity s → step s = .next t →
    Coherent t ∧ t.fault.getLsbD 3 = false ∧
    (t.phase = .resume ∨ t.phase = .byte →
      BelowCapacity t ∧ t.threshold = s.threshold ∧ t.capacity = s.capacity ∧
      t.length.toNat + s.taken = s.length.toNat + t.taken)

/-! ### The queue holds what was pushed -/

/-- `10_state.md` section 6, INV5: the queue is the bytes that pushes since the last successful `CONSTRUCT` wrote,
provided HOST has kept R250. `pushed` and `hostKept` are the model's records (log 21, DESIGN CHOICE); the other clauses
say that they record just that: only a push writes a byte through the store port and it is recorded, a successful
`CONSTRUCT` and a reset start the records anew, HOST's own write in the borrowed region is a breach, and nothing else
changes them. -/
def Obligations.QueueIsWhatPushesWroteSinceTheConstruct : Prop :=
  (∀ s : State, Coherent s → s.constructed = true →
    (∀ b ∈ pushedQueue s, b ≠ none) ∧ (s.hostKept = true → (queue s).map some = pushedQueue s)) ∧
  (∀ s t : State, step s = .next t →
    (∀ a v, t.accesses = s.accesses ++ [.write a v] →
      ((∃ d, Issues s (.pushBack d) ∨ Issues s (.pushFront d)) ∨ InPhase s .byte) ∧
      t.pushed = Memory.set a.toNat v s.pushed ∧ t.hostKept = s.hostKept) ∧
    (∀ store capacity, Issues s (.construct store capacity) → store ≠ 0x0000#16 → capacity ≠ 0#8 →
      t.pushed = [] ∧ t.hostKept = true) ∧
    (clockEdge s = true → s.rst = true → t.pushed = [] ∧ t.hostKept = true) ∧
    (∀ a v rest, s.moves = .hostWrite a v :: rest →
      t.pushed = s.pushed ∧
      (s.constructed = true ∧ inRegion s a → t.hostKept = false) ∧
      (¬ (s.constructed = true ∧ inRegion s a) → t.hostKept = s.hostKept)) ∧
    ((clockEdge s = true ∧ s.rst = true) ∨
      (∃ store capacity, Issues s (.construct store capacity) ∧ store ≠ 0x0000#16 ∧ capacity ≠ 0#8) ∨
      (∃ a v, t.accesses = s.accesses ++ [.write a v]) ∨ (∃ a v rest, s.moves = .hostWrite a v :: rest) ∨
      SameRecord s t))
end

