-- ==== Sys2Proof/Laws/Decode.lean ====
section
/-! SUPPORT. The fields of a word, over the natural numbers, and of a word built from its fields
(`30_encoding.md` R97). -/

namespace Sys2Proof

/-- Joining two fields shifts the upper one. -/
theorem toNat_join {m n : Nat} (x : BitVec m) (y : BitVec n) :
    (x ++ y).toNat = x.toNat * 2 ^ n + y.toNat := by
  rw [BitVec.toNat_append, ← Nat.shiftLeft_add_eq_or_of_lt y.isLt, Nat.shiftLeft_eq]

/-- The word of its fields: the formula of R131, R132 and R170. -/
theorem toNat_cmdWord (op : BitVec 4) (a : BitVec 16) (b : Byte) :
    (cmdWord op a b).toNat = op.toNat * 2 ^ 28 + a.toNat * 2 ^ 8 + b.toNat := by
  simp only [cmdWord, toNat_join]
  simp
  omega

theorem toNat_opField (w : CmdWord) : (opField w).toNat = w.toNat / 2 ^ 28 % 2 ^ 4 := by
  simp [opField, Nat.shiftRight_eq_div_pow]

theorem toNat_zField (w : CmdWord) : (zField w).toNat = w.toNat / 2 ^ 24 % 2 ^ 4 := by
  simp [zField, Nat.shiftRight_eq_div_pow]

theorem toNat_aField (w : CmdWord) : (aField w).toNat = w.toNat / 2 ^ 8 % 2 ^ 16 := by
  simp [aField, Nat.shiftRight_eq_div_pow]

theorem toNat_bField (w : CmdWord) : (bField w).toNat = w.toNat % 2 ^ 8 := by
  simp [bField]

theorem toNat_aHigh (w : CmdWord) : (aHigh w).toNat = w.toNat / 2 ^ 16 % 2 ^ 8 := by
  simp [aHigh, Nat.shiftRight_eq_div_pow]

theorem toNat_aLow (w : CmdWord) : (aLow w).toNat = w.toNat / 2 ^ 8 % 2 ^ 8 := by
  simp [aLow, Nat.shiftRight_eq_div_pow]

@[simp] theorem opField_cmdWord (op : BitVec 4) (a : BitVec 16) (b : Byte) :
    opField (cmdWord op a b) = op := by
  apply BitVec.eq_of_toNat_eq
  rw [toNat_opField, toNat_cmdWord]
  omega

@[simp] theorem zField_cmdWord (op : BitVec 4) (a : BitVec 16) (b : Byte) :
    zField (cmdWord op a b) = 0#4 := by
  apply BitVec.eq_of_toNat_eq
  rw [toNat_zField, toNat_cmdWord]
  simp
  omega

@[simp] theorem aField_cmdWord (op : BitVec 4) (a : BitVec 16) (b : Byte) :
    aField (cmdWord op a b) = a := by
  apply BitVec.eq_of_toNat_eq
  rw [toNat_aField, toNat_cmdWord]
  omega

@[simp] theorem bField_cmdWord (op : BitVec 4) (a : BitVec 16) (b : Byte) :
    bField (cmdWord op a b) = b := by
  apply BitVec.eq_of_toNat_eq
  rw [toNat_bField, toNat_cmdWord]
  omega

@[simp] theorem aHigh_cmdWord (op : BitVec 4) (u v : Byte) (b : Byte) :
    aHigh (cmdWord op (u ++ v) b) = u := by
  apply BitVec.eq_of_toNat_eq
  rw [toNat_aHigh, toNat_cmdWord, toNat_join]
  omega

@[simp] theorem aLow_cmdWord (op : BitVec 4) (u v : Byte) (b : Byte) :
    aLow (cmdWord op (u ++ v) b) = v := by
  apply BitVec.eq_of_toNat_eq
  rw [toNat_aLow, toNat_cmdWord, toNat_join]
  omega

/-- A mask with its lowest `k` bits clear keeps the rest of the word. -/
theorem and_mask (w : CmdWord) (k : Nat) : w &&& (BitVec.allOnes 32 <<< k) = (w >>> k) <<< k := by
  apply BitVec.eq_of_getLsbD_eq
  intro i hi
  by_cases h : i < k
  · simp [hi, h]
  · have hk : k + (i - k) = i := by omega
    have hik : i - k < 32 := by omega
    simp only [BitVec.getLsbD_and, BitVec.getLsbD_shiftLeft, BitVec.getLsbD_ushiftRight,
      BitVec.getLsbD_allOnes, hi, h, hk, hik, decide_true, decide_false, Bool.not_false, Bool.and_true,
      Bool.true_and]

/-- Selecting a row (R102), over the natural numbers: the bits above the free ones are the row's. -/
theorem selects_iff (r : CommandRow) (k : Nat) (hm : r.mask = BitVec.allOnes 32 <<< k)
    (hp : r.pattern.toNat % 2 ^ k = 0) (w : CmdWord) :
    r.selects w = true ↔ w.toNat / 2 ^ k = r.pattern.toNat / 2 ^ k := by
  have hlt : w.toNat / 2 ^ k * 2 ^ k < 2 ^ 32 := Nat.lt_of_le_of_lt (Nat.div_mul_le_self _ _) w.isLt
  rw [CommandRow.selects, beq_iff_eq, hm, and_mask, ← BitVec.toNat_inj, BitVec.toNat_shiftLeft,
    BitVec.toNat_ushiftRight, Nat.shiftLeft_eq, Nat.shiftRight_eq_div_pow, Nat.mod_eq_of_lt hlt]
  have hdvd : r.pattern.toNat / 2 ^ k * 2 ^ k = r.pattern.toNat :=
    Nat.div_mul_cancel (Nat.dvd_of_mod_eq_zero hp)
  constructor
  · intro h
    rw [← h, Nat.mul_div_cancel _ (Nat.two_pow_pos k)]
  · intro h
    rw [h, hdvd]

end Sys2Proof
end

