-- ==== Sys2Proof/Laws/State.lean ====
section
/-! SUPPORT. For each shared operation, what each field of the state is after it. Each lemma is true by
computation; with them no proof unfolds a record update. -/

namespace Sys2Proof.Machine

open Sys2Proof

/-! ### `respond` -/

@[simp] theorem respond_capacity (st : Status) (d : Byte) (s : State) :
    (respond st d s).capacity = s.capacity := rfl
@[simp] theorem respond_length (st : Status) (d : Byte) (s : State) :
    (respond st d s).length = s.length := rfl
@[simp] theorem respond_front (st : Status) (d : Byte) (s : State) : (respond st d s).front = s.front := rfl
@[simp] theorem respond_back (st : Status) (d : Byte) (s : State) : (respond st d s).back = s.back := rfl
@[simp] theorem respond_storeBase (st : Status) (d : Byte) (s : State) :
    (respond st d s).storeBase = s.storeBase := rfl
@[simp] theorem respond_constructed (st : Status) (d : Byte) (s : State) :
    (respond st d s).constructed = s.constructed := rfl
@[simp] theorem respond_threshold (st : Status) (d : Byte) (s : State) :
    (respond st d s).threshold = s.threshold := rfl
@[simp] theorem respond_delim (st : Status) (d : Byte) (s : State) : (respond st d s).delim = s.delim := rfl
@[simp] theorem respond_rxState (st : Status) (d : Byte) (s : State) :
    (respond st d s).rxState = s.rxState := rfl
@[simp] theorem respond_fault (st : Status) (d : Byte) (s : State) : (respond st d s).fault = s.fault := rfl
@[simp] theorem respond_phase (st : Status) (d : Byte) (s : State) : (respond st d s).phase = s.phase := rfl
@[simp] theorem respond_store (st : Status) (d : Byte) (s : State) : (respond st d s).store = s.store := rfl
@[simp] theorem respond_cfg (st : Status) (d : Byte) (s : State) : (respond st d s).cfg = s.cfg := rfl
@[simp] theorem respond_rst (st : Status) (d : Byte) (s : State) : (respond st d s).rst = s.rst := rfl
@[simp] theorem respond_sinkReady (st : Status) (d : Byte) (s : State) :
    (respond st d s).sinkReady = s.sinkReady := rfl
@[simp] theorem respond_commands (st : Status) (d : Byte) (s : State) :
    (respond st d s).commands = s.commands := rfl
@[simp] theorem respond_source (st : Status) (d : Byte) (s : State) :
    (respond st d s).source = s.source := rfl
@[simp] theorem respond_moves (st : Status) (d : Byte) (s : State) : (respond st d s).moves = s.moves := rfl
@[simp] theorem respond_responses (st : Status) (d : Byte) (s : State) :
    (respond st d s).responses = s.responses ++ [responseWord st d] := rfl
@[simp] theorem respond_sink (st : Status) (d : Byte) (s : State) : (respond st d s).sink = s.sink := rfl
@[simp] theorem respond_taken (st : Status) (d : Byte) (s : State) : (respond st d s).taken = s.taken := rfl
@[simp] theorem respond_accesses (st : Status) (d : Byte) (s : State) :
    (respond st d s).accesses = s.accesses := rfl
@[simp] theorem respond_draws (st : Status) (d : Byte) (s : State) : (respond st d s).draws = s.draws := rfl
@[simp] theorem respond_pushed (st : Status) (d : Byte) (s : State) :
    (respond st d s).pushed = s.pushed := rfl
@[simp] theorem respond_hostKept (st : Status) (d : Byte) (s : State) :
    (respond st d s).hostKept = s.hostKept := rfl

/-! ### `respondAny8` -/

@[simp] theorem respondAny8_capacity (st : Status) (s : State) :
    (respondAny8 st s).capacity = s.capacity := rfl
@[simp] theorem respondAny8_length (st : Status) (s : State) : (respondAny8 st s).length = s.length := rfl
@[simp] theorem respondAny8_front (st : Status) (s : State) : (respondAny8 st s).front = s.front := rfl
@[simp] theorem respondAny8_back (st : Status) (s : State) : (respondAny8 st s).back = s.back := rfl
@[simp] theorem respondAny8_storeBase (st : Status) (s : State) :
    (respondAny8 st s).storeBase = s.storeBase := rfl
@[simp] theorem respondAny8_constructed (st : Status) (s : State) :
    (respondAny8 st s).constructed = s.constructed := rfl
@[simp] theorem respondAny8_threshold (st : Status) (s : State) :
    (respondAny8 st s).threshold = s.threshold := rfl
@[simp] theorem respondAny8_delim (st : Status) (s : State) : (respondAny8 st s).delim = s.delim := rfl
@[simp] theorem respondAny8_rxState (st : Status) (s : State) : (respondAny8 st s).rxState = s.rxState := rfl
@[simp] theorem respondAny8_fault (st : Status) (s : State) : (respondAny8 st s).fault = s.fault := rfl
@[simp] theorem respondAny8_phase (st : Status) (s : State) : (respondAny8 st s).phase = s.phase := rfl
@[simp] theorem respondAny8_store (st : Status) (s : State) : (respondAny8 st s).store = s.store := rfl
@[simp] theorem respondAny8_cfg (st : Status) (s : State) : (respondAny8 st s).cfg = s.cfg := rfl
@[simp] theorem respondAny8_rst (st : Status) (s : State) : (respondAny8 st s).rst = s.rst := rfl
@[simp] theorem respondAny8_sinkReady (st : Status) (s : State) :
    (respondAny8 st s).sinkReady = s.sinkReady := rfl
@[simp] theorem respondAny8_commands (st : Status) (s : State) :
    (respondAny8 st s).commands = s.commands := rfl
@[simp] theorem respondAny8_source (st : Status) (s : State) : (respondAny8 st s).source = s.source := rfl
@[simp] theorem respondAny8_moves (st : Status) (s : State) : (respondAny8 st s).moves = s.moves := rfl
@[simp] theorem respondAny8_responses (st : Status) (s : State) :
    (respondAny8 st s).responses = s.responses ++ [responseWord st (Config.any8 s.draws)] := rfl
@[simp] theorem respondAny8_sink (st : Status) (s : State) : (respondAny8 st s).sink = s.sink := rfl
@[simp] theorem respondAny8_taken (st : Status) (s : State) : (respondAny8 st s).taken = s.taken := rfl
@[simp] theorem respondAny8_accesses (st : Status) (s : State) :
    (respondAny8 st s).accesses = s.accesses := rfl
@[simp] theorem respondAny8_draws (st : Status) (s : State) : (respondAny8 st s).draws = s.draws + 1 := rfl
@[simp] theorem respondAny8_pushed (st : Status) (s : State) : (respondAny8 st s).pushed = s.pushed := rfl
@[simp] theorem respondAny8_hostKept (st : Status) (s : State) :
    (respondAny8 st s).hostKept = s.hostKept := rfl

/-! ### `answerIllegal` -/

@[simp] theorem answerIllegal_capacity (s : State) : (answerIllegal s).capacity = s.capacity := rfl
@[simp] theorem answerIllegal_length (s : State) : (answerIllegal s).length = s.length := rfl
@[simp] theorem answerIllegal_front (s : State) : (answerIllegal s).front = s.front := rfl
@[simp] theorem answerIllegal_back (s : State) : (answerIllegal s).back = s.back := rfl
@[simp] theorem answerIllegal_storeBase (s : State) : (answerIllegal s).storeBase = s.storeBase := rfl
@[simp] theorem answerIllegal_constructed (s : State) : (answerIllegal s).constructed = s.constructed := rfl
@[simp] theorem answerIllegal_threshold (s : State) : (answerIllegal s).threshold = s.threshold := rfl
@[simp] theorem answerIllegal_delim (s : State) : (answerIllegal s).delim = s.delim := rfl
@[simp] theorem answerIllegal_rxState (s : State) : (answerIllegal s).rxState = s.rxState := rfl
@[simp] theorem answerIllegal_fault (s : State) : (answerIllegal s).fault = s.fault := rfl
@[simp] theorem answerIllegal_phase (s : State) : (answerIllegal s).phase = s.phase := rfl
@[simp] theorem answerIllegal_store (s : State) : (answerIllegal s).store = s.store := rfl
@[simp] theorem answerIllegal_cfg (s : State) : (answerIllegal s).cfg = s.cfg := rfl
@[simp] theorem answerIllegal_rst (s : State) : (answerIllegal s).rst = s.rst := rfl
@[simp] theorem answerIllegal_sinkReady (s : State) : (answerIllegal s).sinkReady = s.sinkReady := rfl
@[simp] theorem answerIllegal_commands (s : State) : (answerIllegal s).commands = s.commands := rfl
@[simp] theorem answerIllegal_source (s : State) : (answerIllegal s).source = s.source := rfl
@[simp] theorem answerIllegal_moves (s : State) : (answerIllegal s).moves = s.moves := rfl
@[simp] theorem answerIllegal_responses (s : State) :
    (answerIllegal s).responses = s.responses ++ [responseWord .illegalCommand 0x00#8] := rfl
@[simp] theorem answerIllegal_sink (s : State) : (answerIllegal s).sink = s.sink := rfl
@[simp] theorem answerIllegal_taken (s : State) : (answerIllegal s).taken = s.taken := rfl
@[simp] theorem answerIllegal_accesses (s : State) : (answerIllegal s).accesses = s.accesses := rfl
@[simp] theorem answerIllegal_draws (s : State) : (answerIllegal s).draws = s.draws := rfl
@[simp] theorem answerIllegal_pushed (s : State) : (answerIllegal s).pushed = s.pushed := rfl
@[simp] theorem answerIllegal_hostKept (s : State) : (answerIllegal s).hostKept = s.hostKept := rfl

/-! ### `memRead` -/

@[simp] theorem memRead_value (a : Addr) (s : State) : (memRead a s).1 = Memory.read s.store a := rfl

@[simp] theorem memRead_capacity (a : Addr) (s : State) : (memRead a s).2.capacity = s.capacity := rfl
@[simp] theorem memRead_length (a : Addr) (s : State) : (memRead a s).2.length = s.length := rfl
@[simp] theorem memRead_front (a : Addr) (s : State) : (memRead a s).2.front = s.front := rfl
@[simp] theorem memRead_back (a : Addr) (s : State) : (memRead a s).2.back = s.back := rfl
@[simp] theorem memRead_storeBase (a : Addr) (s : State) : (memRead a s).2.storeBase = s.storeBase := rfl
@[simp] theorem memRead_constructed (a : Addr) (s : State) :
    (memRead a s).2.constructed = s.constructed := rfl
@[simp] theorem memRead_threshold (a : Addr) (s : State) : (memRead a s).2.threshold = s.threshold := rfl
@[simp] theorem memRead_delim (a : Addr) (s : State) : (memRead a s).2.delim = s.delim := rfl
@[simp] theorem memRead_rxState (a : Addr) (s : State) : (memRead a s).2.rxState = s.rxState := rfl
@[simp] theorem memRead_fault (a : Addr) (s : State) : (memRead a s).2.fault = s.fault := rfl
@[simp] theorem memRead_phase (a : Addr) (s : State) : (memRead a s).2.phase = s.phase := rfl
@[simp] theorem memRead_store (a : Addr) (s : State) : (memRead a s).2.store = s.store := rfl
@[simp] theorem memRead_cfg (a : Addr) (s : State) : (memRead a s).2.cfg = s.cfg := rfl
@[simp] theorem memRead_rst (a : Addr) (s : State) : (memRead a s).2.rst = s.rst := rfl
@[simp] theorem memRead_sinkReady (a : Addr) (s : State) : (memRead a s).2.sinkReady = s.sinkReady := rfl
@[simp] theorem memRead_commands (a : Addr) (s : State) : (memRead a s).2.commands = s.commands := rfl
@[simp] theorem memRead_source (a : Addr) (s : State) : (memRead a s).2.source = s.source := rfl
@[simp] theorem memRead_moves (a : Addr) (s : State) : (memRead a s).2.moves = s.moves := rfl
@[simp] theorem memRead_responses (a : Addr) (s : State) : (memRead a s).2.responses = s.responses := rfl
@[simp] theorem memRead_sink (a : Addr) (s : State) : (memRead a s).2.sink = s.sink := rfl
@[simp] theorem memRead_taken (a : Addr) (s : State) : (memRead a s).2.taken = s.taken := rfl
@[simp] theorem memRead_accesses (a : Addr) (s : State) :
    (memRead a s).2.accesses = s.accesses ++ [.read (a) (Memory.read s.store (a))] := rfl
@[simp] theorem memRead_draws (a : Addr) (s : State) : (memRead a s).2.draws = s.draws := rfl
@[simp] theorem memRead_pushed (a : Addr) (s : State) : (memRead a s).2.pushed = s.pushed := rfl
@[simp] theorem memRead_hostKept (a : Addr) (s : State) : (memRead a s).2.hostKept = s.hostKept := rfl

/-! ### `memWrite` -/

@[simp] theorem memWrite_capacity (a : Addr) (v : Byte) (s : State) :
    (memWrite a v s).capacity = s.capacity := rfl
@[simp] theorem memWrite_length (a : Addr) (v : Byte) (s : State) : (memWrite a v s).length = s.length := rfl
@[simp] theorem memWrite_front (a : Addr) (v : Byte) (s : State) : (memWrite a v s).front = s.front := rfl
@[simp] theorem memWrite_back (a : Addr) (v : Byte) (s : State) : (memWrite a v s).back = s.back := rfl
@[simp] theorem memWrite_storeBase (a : Addr) (v : Byte) (s : State) :
    (memWrite a v s).storeBase = s.storeBase := rfl
@[simp] theorem memWrite_constructed (a : Addr) (v : Byte) (s : State) :
    (memWrite a v s).constructed = s.constructed := rfl
@[simp] theorem memWrite_threshold (a : Addr) (v : Byte) (s : State) :
    (memWrite a v s).threshold = s.threshold := rfl
@[simp] theorem memWrite_delim (a : Addr) (v : Byte) (s : State) : (memWrite a v s).delim = s.delim := rfl
@[simp] theorem memWrite_rxState (a : Addr) (v : Byte) (s : State) :
    (memWrite a v s).rxState = s.rxState := rfl
@[simp] theorem memWrite_fault (a : Addr) (v : Byte) (s : State) : (memWrite a v s).fault = s.fault := rfl
@[simp] theorem memWrite_phase (a : Addr) (v : Byte) (s : State) : (memWrite a v s).phase = s.phase := rfl
@[simp] theorem memWrite_store (a : Addr) (v : Byte) (s : State) :
    (memWrite a v s).store = Memory.set a.toNat v s.store := rfl
@[simp] theorem memWrite_cfg (a : Addr) (v : Byte) (s : State) : (memWrite a v s).cfg = s.cfg := rfl
@[simp] theorem memWrite_rst (a : Addr) (v : Byte) (s : State) : (memWrite a v s).rst = s.rst := rfl
@[simp] theorem memWrite_sinkReady (a : Addr) (v : Byte) (s : State) :
    (memWrite a v s).sinkReady = s.sinkReady := rfl
@[simp] theorem memWrite_commands (a : Addr) (v : Byte) (s : State) :
    (memWrite a v s).commands = s.commands := rfl
@[simp] theorem memWrite_source (a : Addr) (v : Byte) (s : State) : (memWrite a v s).source = s.source := rfl
@[simp] theorem memWrite_moves (a : Addr) (v : Byte) (s : State) : (memWrite a v s).moves = s.moves := rfl
@[simp] theorem memWrite_responses (a : Addr) (v : Byte) (s : State) :
    (memWrite a v s).responses = s.responses := rfl
@[simp] theorem memWrite_sink (a : Addr) (v : Byte) (s : State) : (memWrite a v s).sink = s.sink := rfl
@[simp] theorem memWrite_taken (a : Addr) (v : Byte) (s : State) : (memWrite a v s).taken = s.taken := rfl
@[simp] theorem memWrite_accesses (a : Addr) (v : Byte) (s : State) :
    (memWrite a v s).accesses = s.accesses ++ [.write (a) v] := rfl
@[simp] theorem memWrite_draws (a : Addr) (v : Byte) (s : State) : (memWrite a v s).draws = s.draws := rfl
@[simp] theorem memWrite_pushed (a : Addr) (v : Byte) (s : State) : (memWrite a v s).pushed = s.pushed := rfl
@[simp] theorem memWrite_hostKept (a : Addr) (v : Byte) (s : State) :
    (memWrite a v s).hostKept = s.hostKept := rfl

/-! ### `pushByte` -/

@[simp] theorem pushByte_capacity (a : Addr) (data : Byte) (s : State) :
    (pushByte a data s).capacity = s.capacity := rfl
@[simp] theorem pushByte_length (a : Addr) (data : Byte) (s : State) :
    (pushByte a data s).length = s.length := rfl
@[simp] theorem pushByte_front (a : Addr) (data : Byte) (s : State) :
    (pushByte a data s).front = s.front := rfl
@[simp] theorem pushByte_back (a : Addr) (data : Byte) (s : State) : (pushByte a data s).back = s.back := rfl
@[simp] theorem pushByte_storeBase (a : Addr) (data : Byte) (s : State) :
    (pushByte a data s).storeBase = s.storeBase := rfl
@[simp] theorem pushByte_constructed (a : Addr) (data : Byte) (s : State) :
    (pushByte a data s).constructed = s.constructed := rfl
@[simp] theorem pushByte_threshold (a : Addr) (data : Byte) (s : State) :
    (pushByte a data s).threshold = s.threshold := rfl
@[simp] theorem pushByte_delim (a : Addr) (data : Byte) (s : State) :
    (pushByte a data s).delim = s.delim := rfl
@[simp] theorem pushByte_rxState (a : Addr) (data : Byte) (s : State) :
    (pushByte a data s).rxState = s.rxState := rfl
@[simp] theorem pushByte_fault (a : Addr) (data : Byte) (s : State) :
    (pushByte a data s).fault = s.fault := rfl
@[simp] theorem pushByte_phase (a : Addr) (data : Byte) (s : State) :
    (pushByte a data s).phase = s.phase := rfl
@[simp] theorem pushByte_store (a : Addr) (data : Byte) (s : State) :
    (pushByte a data s).store = Memory.set a.toNat data s.store := rfl
@[simp] theorem pushByte_cfg (a : Addr) (data : Byte) (s : State) : (pushByte a data s).cfg = s.cfg := rfl
@[simp] theorem pushByte_rst (a : Addr) (data : Byte) (s : State) : (pushByte a data s).rst = s.rst := rfl
@[simp] theorem pushByte_sinkReady (a : Addr) (data : Byte) (s : State) :
    (pushByte a data s).sinkReady = s.sinkReady := rfl
@[simp] theorem pushByte_commands (a : Addr) (data : Byte) (s : State) :
    (pushByte a data s).commands = s.commands := rfl
@[simp] theorem pushByte_source (a : Addr) (data : Byte) (s : State) :
    (pushByte a data s).source = s.source := rfl
@[simp] theorem pushByte_moves (a : Addr) (data : Byte) (s : State) :
    (pushByte a data s).moves = s.moves := rfl
@[simp] theorem pushByte_responses (a : Addr) (data : Byte) (s : State) :
    (pushByte a data s).responses = s.responses := rfl
@[simp] theorem pushByte_sink (a : Addr) (data : Byte) (s : State) : (pushByte a data s).sink = s.sink := rfl
@[simp] theorem pushByte_taken (a : Addr) (data : Byte) (s : State) :
    (pushByte a data s).taken = s.taken := rfl
@[simp] theorem pushByte_accesses (a : Addr) (data : Byte) (s : State) :
    (pushByte a data s).accesses = s.accesses ++ [.write (a) data] := rfl
@[simp] theorem pushByte_draws (a : Addr) (data : Byte) (s : State) :
    (pushByte a data s).draws = s.draws := rfl
@[simp] theorem pushByte_pushed (a : Addr) (data : Byte) (s : State) :
    (pushByte a data s).pushed = Memory.set a.toNat data s.pushed := rfl
@[simp] theorem pushByte_hostKept (a : Addr) (data : Byte) (s : State) :
    (pushByte a data s).hostKept = s.hostKept := rfl

/-! ### `snkWrite` -/

@[simp] theorem snkWrite_capacity (b : Byte) (s : State) : (snkWrite b s).capacity = s.capacity := rfl
@[simp] theorem snkWrite_length (b : Byte) (s : State) : (snkWrite b s).length = s.length := rfl
@[simp] theorem snkWrite_front (b : Byte) (s : State) : (snkWrite b s).front = s.front := rfl
@[simp] theorem snkWrite_back (b : Byte) (s : State) : (snkWrite b s).back = s.back := rfl
@[simp] theorem snkWrite_storeBase (b : Byte) (s : State) : (snkWrite b s).storeBase = s.storeBase := rfl
@[simp] theorem snkWrite_constructed (b : Byte) (s : State) :
    (snkWrite b s).constructed = s.constructed := rfl
@[simp] theorem snkWrite_threshold (b : Byte) (s : State) : (snkWrite b s).threshold = s.threshold := rfl
@[simp] theorem snkWrite_delim (b : Byte) (s : State) : (snkWrite b s).delim = s.delim := rfl
@[simp] theorem snkWrite_rxState (b : Byte) (s : State) : (snkWrite b s).rxState = s.rxState := rfl
@[simp] theorem snkWrite_fault (b : Byte) (s : State) : (snkWrite b s).fault = s.fault := rfl
@[simp] theorem snkWrite_phase (b : Byte) (s : State) : (snkWrite b s).phase = s.phase := rfl
@[simp] theorem snkWrite_store (b : Byte) (s : State) : (snkWrite b s).store = s.store := rfl
@[simp] theorem snkWrite_cfg (b : Byte) (s : State) : (snkWrite b s).cfg = s.cfg := rfl
@[simp] theorem snkWrite_rst (b : Byte) (s : State) : (snkWrite b s).rst = s.rst := rfl
@[simp] theorem snkWrite_sinkReady (b : Byte) (s : State) : (snkWrite b s).sinkReady = s.sinkReady := rfl
@[simp] theorem snkWrite_commands (b : Byte) (s : State) : (snkWrite b s).commands = s.commands := rfl
@[simp] theorem snkWrite_source (b : Byte) (s : State) : (snkWrite b s).source = s.source := rfl
@[simp] theorem snkWrite_moves (b : Byte) (s : State) : (snkWrite b s).moves = s.moves := rfl
@[simp] theorem snkWrite_responses (b : Byte) (s : State) : (snkWrite b s).responses = s.responses := rfl
@[simp] theorem snkWrite_sink (b : Byte) (s : State) : (snkWrite b s).sink = s.sink ++ [b] := rfl
@[simp] theorem snkWrite_taken (b : Byte) (s : State) : (snkWrite b s).taken = s.taken := rfl
@[simp] theorem snkWrite_accesses (b : Byte) (s : State) : (snkWrite b s).accesses = s.accesses := rfl
@[simp] theorem snkWrite_draws (b : Byte) (s : State) : (snkWrite b s).draws = s.draws := rfl
@[simp] theorem snkWrite_pushed (b : Byte) (s : State) : (snkWrite b s).pushed = s.pushed := rfl
@[simp] theorem snkWrite_hostKept (b : Byte) (s : State) : (snkWrite b s).hostKept = s.hostKept := rfl

/-! ### `placeBack` -/

@[simp] theorem placeBack_capacity (data : Byte) (s : State) : (placeBack data s).capacity = s.capacity := rfl
@[simp] theorem placeBack_length (data : Byte) (s : State) :
    (placeBack data s).length = toReg8 (s.length.toNat + 1) := rfl
@[simp] theorem placeBack_front (data : Byte) (s : State) : (placeBack data s).front = s.front := rfl
@[simp] theorem placeBack_back (data : Byte) (s : State) :
    (placeBack data s).back = advance s.capacity s.back := rfl
@[simp] theorem placeBack_storeBase (data : Byte) (s : State) :
    (placeBack data s).storeBase = s.storeBase := rfl
@[simp] theorem placeBack_constructed (data : Byte) (s : State) :
    (placeBack data s).constructed = s.constructed := rfl
@[simp] theorem placeBack_threshold (data : Byte) (s : State) :
    (placeBack data s).threshold = s.threshold := rfl
@[simp] theorem placeBack_delim (data : Byte) (s : State) : (placeBack data s).delim = s.delim := rfl
@[simp] theorem placeBack_rxState (data : Byte) (s : State) : (placeBack data s).rxState = s.rxState := rfl
@[simp] theorem placeBack_fault (data : Byte) (s : State) : (placeBack data s).fault = s.fault := rfl
@[simp] theorem placeBack_phase (data : Byte) (s : State) : (placeBack data s).phase = s.phase := rfl
@[simp] theorem placeBack_store (data : Byte) (s : State) :
    (placeBack data s).store = Memory.set (slot s.storeBase s.back).toNat data s.store := rfl
@[simp] theorem placeBack_cfg (data : Byte) (s : State) : (placeBack data s).cfg = s.cfg := rfl
@[simp] theorem placeBack_rst (data : Byte) (s : State) : (placeBack data s).rst = s.rst := rfl
@[simp] theorem placeBack_sinkReady (data : Byte) (s : State) :
    (placeBack data s).sinkReady = s.sinkReady := rfl
@[simp] theorem placeBack_commands (data : Byte) (s : State) : (placeBack data s).commands = s.commands := rfl
@[simp] theorem placeBack_source (data : Byte) (s : State) : (placeBack data s).source = s.source := rfl
@[simp] theorem placeBack_moves (data : Byte) (s : State) : (placeBack data s).moves = s.moves := rfl
@[simp] theorem placeBack_responses (data : Byte) (s : State) :
    (placeBack data s).responses = s.responses := rfl
@[simp] theorem placeBack_sink (data : Byte) (s : State) : (placeBack data s).sink = s.sink := rfl
@[simp] theorem placeBack_taken (data : Byte) (s : State) : (placeBack data s).taken = s.taken := rfl
@[simp] theorem placeBack_accesses (data : Byte) (s : State) :
    (placeBack data s).accesses = s.accesses ++ [.write (slot s.storeBase s.back) data] := rfl
@[simp] theorem placeBack_draws (data : Byte) (s : State) : (placeBack data s).draws = s.draws := rfl
@[simp] theorem placeBack_pushed (data : Byte) (s : State) :
    (placeBack data s).pushed = Memory.set (slot s.storeBase s.back).toNat data s.pushed := rfl
@[simp] theorem placeBack_hostKept (data : Byte) (s : State) : (placeBack data s).hostKept = s.hostKept := rfl

/-! ### `placeFront` -/

@[simp] theorem placeFront_capacity (data : Byte) (s : State) :
    (placeFront data s).capacity = s.capacity := rfl
@[simp] theorem placeFront_length (data : Byte) (s : State) :
    (placeFront data s).length = toReg8 (s.length.toNat + 1) := rfl
@[simp] theorem placeFront_front (data : Byte) (s : State) :
    (placeFront data s).front = retreat s.capacity s.front := rfl
@[simp] theorem placeFront_back (data : Byte) (s : State) : (placeFront data s).back = s.back := rfl
@[simp] theorem placeFront_storeBase (data : Byte) (s : State) :
    (placeFront data s).storeBase = s.storeBase := rfl
@[simp] theorem placeFront_constructed (data : Byte) (s : State) :
    (placeFront data s).constructed = s.constructed := rfl
@[simp] theorem placeFront_threshold (data : Byte) (s : State) :
    (placeFront data s).threshold = s.threshold := rfl
@[simp] theorem placeFront_delim (data : Byte) (s : State) : (placeFront data s).delim = s.delim := rfl
@[simp] theorem placeFront_rxState (data : Byte) (s : State) : (placeFront data s).rxState = s.rxState := rfl
@[simp] theorem placeFront_fault (data : Byte) (s : State) : (placeFront data s).fault = s.fault := rfl
@[simp] theorem placeFront_phase (data : Byte) (s : State) : (placeFront data s).phase = s.phase := rfl
@[simp] theorem placeFront_store (data : Byte) (s : State) :
    (placeFront data s).store = Memory.set (slot s.storeBase (retreat s.capacity s.front)).toNat data s.store := rfl
@[simp] theorem placeFront_cfg (data : Byte) (s : State) : (placeFront data s).cfg = s.cfg := rfl
@[simp] theorem placeFront_rst (data : Byte) (s : State) : (placeFront data s).rst = s.rst := rfl
@[simp] theorem placeFront_sinkReady (data : Byte) (s : State) :
    (placeFront data s).sinkReady = s.sinkReady := rfl
@[simp] theorem placeFront_commands (data : Byte) (s : State) :
    (placeFront data s).commands = s.commands := rfl
@[simp] theorem placeFront_source (data : Byte) (s : State) : (placeFront data s).source = s.source := rfl
@[simp] theorem placeFront_moves (data : Byte) (s : State) : (placeFront data s).moves = s.moves := rfl
@[simp] theorem placeFront_responses (data : Byte) (s : State) :
    (placeFront data s).responses = s.responses := rfl
@[simp] theorem placeFront_sink (data : Byte) (s : State) : (placeFront data s).sink = s.sink := rfl
@[simp] theorem placeFront_taken (data : Byte) (s : State) : (placeFront data s).taken = s.taken := rfl
@[simp] theorem placeFront_accesses (data : Byte) (s : State) :
    (placeFront data s).accesses = s.accesses ++ [.write (slot s.storeBase (retreat s.capacity s.front)) data] := rfl
@[simp] theorem placeFront_draws (data : Byte) (s : State) : (placeFront data s).draws = s.draws := rfl
@[simp] theorem placeFront_pushed (data : Byte) (s : State) :
    (placeFront data s).pushed = Memory.set (slot s.storeBase (retreat s.capacity s.front)).toNat data s.pushed := rfl
@[simp] theorem placeFront_hostKept (data : Byte) (s : State) :
    (placeFront data s).hostKept = s.hostKept := rfl

/-! ### `lookFront` -/

@[simp] theorem lookFront_value (s : State) : (lookFront s).1 = Memory.read s.store (slot s.storeBase s.front) := rfl

@[simp] theorem lookFront_capacity (s : State) : (lookFront s).2.capacity = s.capacity := rfl
@[simp] theorem lookFront_length (s : State) : (lookFront s).2.length = s.length := rfl
@[simp] theorem lookFront_front (s : State) : (lookFront s).2.front = s.front := rfl
@[simp] theorem lookFront_back (s : State) : (lookFront s).2.back = s.back := rfl
@[simp] theorem lookFront_storeBase (s : State) : (lookFront s).2.storeBase = s.storeBase := rfl
@[simp] theorem lookFront_constructed (s : State) : (lookFront s).2.constructed = s.constructed := rfl
@[simp] theorem lookFront_threshold (s : State) : (lookFront s).2.threshold = s.threshold := rfl
@[simp] theorem lookFront_delim (s : State) : (lookFront s).2.delim = s.delim := rfl
@[simp] theorem lookFront_rxState (s : State) : (lookFront s).2.rxState = s.rxState := rfl
@[simp] theorem lookFront_fault (s : State) : (lookFront s).2.fault = s.fault := rfl
@[simp] theorem lookFront_phase (s : State) : (lookFront s).2.phase = s.phase := rfl
@[simp] theorem lookFront_store (s : State) : (lookFront s).2.store = s.store := rfl
@[simp] theorem lookFront_cfg (s : State) : (lookFront s).2.cfg = s.cfg := rfl
@[simp] theorem lookFront_rst (s : State) : (lookFront s).2.rst = s.rst := rfl
@[simp] theorem lookFront_sinkReady (s : State) : (lookFront s).2.sinkReady = s.sinkReady := rfl
@[simp] theorem lookFront_commands (s : State) : (lookFront s).2.commands = s.commands := rfl
@[simp] theorem lookFront_source (s : State) : (lookFront s).2.source = s.source := rfl
@[simp] theorem lookFront_moves (s : State) : (lookFront s).2.moves = s.moves := rfl
@[simp] theorem lookFront_responses (s : State) : (lookFront s).2.responses = s.responses := rfl
@[simp] theorem lookFront_sink (s : State) : (lookFront s).2.sink = s.sink := rfl
@[simp] theorem lookFront_taken (s : State) : (lookFront s).2.taken = s.taken := rfl
@[simp] theorem lookFront_accesses (s : State) :
    (lookFront s).2.accesses = s.accesses ++ [.read (slot s.storeBase s.front) (Memory.read s.store (slot s.storeBase s.front))] := rfl
@[simp] theorem lookFront_draws (s : State) : (lookFront s).2.draws = s.draws := rfl
@[simp] theorem lookFront_pushed (s : State) : (lookFront s).2.pushed = s.pushed := rfl
@[simp] theorem lookFront_hostKept (s : State) : (lookFront s).2.hostKept = s.hostKept := rfl

/-! ### `lookBack` -/

@[simp] theorem lookBack_value (s : State) : (lookBack s).1 = Memory.read s.store (slot s.storeBase (retreat s.capacity s.back)) := rfl

@[simp] theorem lookBack_capacity (s : State) : (lookBack s).2.capacity = s.capacity := rfl
@[simp] theorem lookBack_length (s : State) : (lookBack s).2.length = s.length := rfl
@[simp] theorem lookBack_front (s : State) : (lookBack s).2.front = s.front := rfl
@[simp] theorem lookBack_back (s : State) : (lookBack s).2.back = s.back := rfl
@[simp] theorem lookBack_storeBase (s : State) : (lookBack s).2.storeBase = s.storeBase := rfl
@[simp] theorem lookBack_constructed (s : State) : (lookBack s).2.constructed = s.constructed := rfl
@[simp] theorem lookBack_threshold (s : State) : (lookBack s).2.threshold = s.threshold := rfl
@[simp] theorem lookBack_delim (s : State) : (lookBack s).2.delim = s.delim := rfl
@[simp] theorem lookBack_rxState (s : State) : (lookBack s).2.rxState = s.rxState := rfl
@[simp] theorem lookBack_fault (s : State) : (lookBack s).2.fault = s.fault := rfl
@[simp] theorem lookBack_phase (s : State) : (lookBack s).2.phase = s.phase := rfl
@[simp] theorem lookBack_store (s : State) : (lookBack s).2.store = s.store := rfl
@[simp] theorem lookBack_cfg (s : State) : (lookBack s).2.cfg = s.cfg := rfl
@[simp] theorem lookBack_rst (s : State) : (lookBack s).2.rst = s.rst := rfl
@[simp] theorem lookBack_sinkReady (s : State) : (lookBack s).2.sinkReady = s.sinkReady := rfl
@[simp] theorem lookBack_commands (s : State) : (lookBack s).2.commands = s.commands := rfl
@[simp] theorem lookBack_source (s : State) : (lookBack s).2.source = s.source := rfl
@[simp] theorem lookBack_moves (s : State) : (lookBack s).2.moves = s.moves := rfl
@[simp] theorem lookBack_responses (s : State) : (lookBack s).2.responses = s.responses := rfl
@[simp] theorem lookBack_sink (s : State) : (lookBack s).2.sink = s.sink := rfl
@[simp] theorem lookBack_taken (s : State) : (lookBack s).2.taken = s.taken := rfl
@[simp] theorem lookBack_accesses (s : State) :
    (lookBack s).2.accesses = s.accesses ++ [.read (slot s.storeBase (retreat s.capacity s.back)) (Memory.read s.store (slot s.storeBase (retreat s.capacity s.back)))] := rfl
@[simp] theorem lookBack_draws (s : State) : (lookBack s).2.draws = s.draws := rfl
@[simp] theorem lookBack_pushed (s : State) : (lookBack s).2.pushed = s.pushed := rfl
@[simp] theorem lookBack_hostKept (s : State) : (lookBack s).2.hostKept = s.hostKept := rfl

/-! ### `takeBack` -/

@[simp] theorem takeBack_value (s : State) : (takeBack s).1 = Memory.read s.store (slot s.storeBase (retreat s.capacity s.back)) := rfl

@[simp] theorem takeBack_capacity (s : State) : (takeBack s).2.capacity = s.capacity := rfl
@[simp] theorem takeBack_length (s : State) : (takeBack s).2.length = toReg8 (s.length.toNat - 1) := rfl
@[simp] theorem takeBack_front (s : State) : (takeBack s).2.front = s.front := rfl
@[simp] theorem takeBack_back (s : State) : (takeBack s).2.back = retreat s.capacity s.back := rfl
@[simp] theorem takeBack_storeBase (s : State) : (takeBack s).2.storeBase = s.storeBase := rfl
@[simp] theorem takeBack_constructed (s : State) : (takeBack s).2.constructed = s.constructed := rfl
@[simp] theorem takeBack_threshold (s : State) : (takeBack s).2.threshold = s.threshold := rfl
@[simp] theorem takeBack_delim (s : State) : (takeBack s).2.delim = s.delim := rfl
@[simp] theorem takeBack_rxState (s : State) : (takeBack s).2.rxState = s.rxState := rfl
@[simp] theorem takeBack_fault (s : State) : (takeBack s).2.fault = s.fault := rfl
@[simp] theorem takeBack_phase (s : State) : (takeBack s).2.phase = s.phase := rfl
@[simp] theorem takeBack_store (s : State) : (takeBack s).2.store = s.store := rfl
@[simp] theorem takeBack_cfg (s : State) : (takeBack s).2.cfg = s.cfg := rfl
@[simp] theorem takeBack_rst (s : State) : (takeBack s).2.rst = s.rst := rfl
@[simp] theorem takeBack_sinkReady (s : State) : (takeBack s).2.sinkReady = s.sinkReady := rfl
@[simp] theorem takeBack_commands (s : State) : (takeBack s).2.commands = s.commands := rfl
@[simp] theorem takeBack_source (s : State) : (takeBack s).2.source = s.source := rfl
@[simp] theorem takeBack_moves (s : State) : (takeBack s).2.moves = s.moves := rfl
@[simp] theorem takeBack_responses (s : State) : (takeBack s).2.responses = s.responses := rfl
@[simp] theorem takeBack_sink (s : State) : (takeBack s).2.sink = s.sink := rfl
@[simp] theorem takeBack_taken (s : State) : (takeBack s).2.taken = s.taken := rfl
@[simp] theorem takeBack_accesses (s : State) :
    (takeBack s).2.accesses = s.accesses ++ [.read (slot s.storeBase (retreat s.capacity s.back)) (Memory.read s.store (slot s.storeBase (retreat s.capacity s.back)))] := rfl
@[simp] theorem takeBack_draws (s : State) : (takeBack s).2.draws = s.draws := rfl
@[simp] theorem takeBack_pushed (s : State) : (takeBack s).2.pushed = s.pushed := rfl
@[simp] theorem takeBack_hostKept (s : State) : (takeBack s).2.hostKept = s.hostKept := rfl

/-! ### `takeFront` -/

@[simp] theorem takeFront_value (s : State) : (takeFront s).1 = Memory.read s.store (slot s.storeBase s.front) := rfl

@[simp] theorem takeFront_capacity (s : State) : (takeFront s).2.capacity = s.capacity := rfl
@[simp] theorem takeFront_length (s : State) : (takeFront s).2.length = toReg8 (s.length.toNat - 1) := rfl
@[simp] theorem takeFront_front (s : State) : (takeFront s).2.front = advance s.capacity s.front := rfl
@[simp] theorem takeFront_back (s : State) : (takeFront s).2.back = s.back := rfl
@[simp] theorem takeFront_storeBase (s : State) : (takeFront s).2.storeBase = s.storeBase := rfl
@[simp] theorem takeFront_constructed (s : State) : (takeFront s).2.constructed = s.constructed := rfl
@[simp] theorem takeFront_threshold (s : State) : (takeFront s).2.threshold = s.threshold := rfl
@[simp] theorem takeFront_delim (s : State) : (takeFront s).2.delim = s.delim := rfl
@[simp] theorem takeFront_rxState (s : State) : (takeFront s).2.rxState = s.rxState := rfl
@[simp] theorem takeFront_fault (s : State) : (takeFront s).2.fault = s.fault := rfl
@[simp] theorem takeFront_phase (s : State) : (takeFront s).2.phase = s.phase := rfl
@[simp] theorem takeFront_store (s : State) : (takeFront s).2.store = s.store := rfl
@[simp] theorem takeFront_cfg (s : State) : (takeFront s).2.cfg = s.cfg := rfl
@[simp] theorem takeFront_rst (s : State) : (takeFront s).2.rst = s.rst := rfl
@[simp] theorem takeFront_sinkReady (s : State) : (takeFront s).2.sinkReady = s.sinkReady := rfl
@[simp] theorem takeFront_commands (s : State) : (takeFront s).2.commands = s.commands := rfl
@[simp] theorem takeFront_source (s : State) : (takeFront s).2.source = s.source := rfl
@[simp] theorem takeFront_moves (s : State) : (takeFront s).2.moves = s.moves := rfl
@[simp] theorem takeFront_responses (s : State) : (takeFront s).2.responses = s.responses := rfl
@[simp] theorem takeFront_sink (s : State) : (takeFront s).2.sink = s.sink := rfl
@[simp] theorem takeFront_taken (s : State) : (takeFront s).2.taken = s.taken := rfl
@[simp] theorem takeFront_accesses (s : State) :
    (takeFront s).2.accesses = s.accesses ++ [.read (slot s.storeBase s.front) (Memory.read s.store (slot s.storeBase s.front))] := rfl
@[simp] theorem takeFront_draws (s : State) : (takeFront s).2.draws = s.draws := rfl
@[simp] theorem takeFront_pushed (s : State) : (takeFront s).2.pushed = s.pushed := rfl
@[simp] theorem takeFront_hostKept (s : State) : (takeFront s).2.hostKept = s.hostKept := rfl

/-! ### `newQueue` -/

@[simp] theorem newQueue_capacity (store : Addr) (capacity : Byte) (s : State) :
    (newQueue store capacity s).capacity = capacity := rfl
@[simp] theorem newQueue_length (store : Addr) (capacity : Byte) (s : State) :
    (newQueue store capacity s).length = 0x00#8 := rfl
@[simp] theorem newQueue_front (store : Addr) (capacity : Byte) (s : State) :
    (newQueue store capacity s).front = 0x00#8 := rfl
@[simp] theorem newQueue_back (store : Addr) (capacity : Byte) (s : State) :
    (newQueue store capacity s).back = 0x00#8 := rfl
@[simp] theorem newQueue_storeBase (store : Addr) (capacity : Byte) (s : State) :
    (newQueue store capacity s).storeBase = store := rfl
@[simp] theorem newQueue_constructed (store : Addr) (capacity : Byte) (s : State) :
    (newQueue store capacity s).constructed = true := rfl
@[simp] theorem newQueue_threshold (store : Addr) (capacity : Byte) (s : State) :
    (newQueue store capacity s).threshold = s.threshold := rfl
@[simp] theorem newQueue_delim (store : Addr) (capacity : Byte) (s : State) :
    (newQueue store capacity s).delim = s.delim := rfl
@[simp] theorem newQueue_rxState (store : Addr) (capacity : Byte) (s : State) :
    (newQueue store capacity s).rxState = s.rxState := rfl
@[simp] theorem newQueue_fault (store : Addr) (capacity : Byte) (s : State) :
    (newQueue store capacity s).fault = s.fault := rfl
@[simp] theorem newQueue_phase (store : Addr) (capacity : Byte) (s : State) :
    (newQueue store capacity s).phase = s.phase := rfl
@[simp] theorem newQueue_store (store : Addr) (capacity : Byte) (s : State) :
    (newQueue store capacity s).store = s.store := rfl
@[simp] theorem newQueue_cfg (store : Addr) (capacity : Byte) (s : State) :
    (newQueue store capacity s).cfg = s.cfg := rfl
@[simp] theorem newQueue_rst (store : Addr) (capacity : Byte) (s : State) :
    (newQueue store capacity s).rst = s.rst := rfl
@[simp] theorem newQueue_sinkReady (store : Addr) (capacity : Byte) (s : State) :
    (newQueue store capacity s).sinkReady = s.sinkReady := rfl
@[simp] theorem newQueue_commands (store : Addr) (capacity : Byte) (s : State) :
    (newQueue store capacity s).commands = s.commands := rfl
@[simp] theorem newQueue_source (store : Addr) (capacity : Byte) (s : State) :
    (newQueue store capacity s).source = s.source := rfl
@[simp] theorem newQueue_moves (store : Addr) (capacity : Byte) (s : State) :
    (newQueue store capacity s).moves = s.moves := rfl
@[simp] theorem newQueue_responses (store : Addr) (capacity : Byte) (s : State) :
    (newQueue store capacity s).responses = s.responses := rfl
@[simp] theorem newQueue_sink (store : Addr) (capacity : Byte) (s : State) :
    (newQueue store capacity s).sink = s.sink := rfl
@[simp] theorem newQueue_taken (store : Addr) (capacity : Byte) (s : State) :
    (newQueue store capacity s).taken = s.taken := rfl
@[simp] theorem newQueue_accesses (store : Addr) (capacity : Byte) (s : State) :
    (newQueue store capacity s).accesses = s.accesses := rfl
@[simp] theorem newQueue_draws (store : Addr) (capacity : Byte) (s : State) :
    (newQueue store capacity s).draws = s.draws := rfl
@[simp] theorem newQueue_pushed (store : Addr) (capacity : Byte) (s : State) :
    (newQueue store capacity s).pushed = [] := rfl
@[simp] theorem newQueue_hostKept (store : Addr) (capacity : Byte) (s : State) :
    (newQueue store capacity s).hostKept = true := rfl

/-! ### `raiseReceiveFault` -/

@[simp] theorem raiseReceiveFault_capacity (m : BitVec 4) (s : State) :
    (raiseReceiveFault m s).capacity = s.capacity := rfl
@[simp] theorem raiseReceiveFault_length (m : BitVec 4) (s : State) :
    (raiseReceiveFault m s).length = s.length := rfl
@[simp] theorem raiseReceiveFault_front (m : BitVec 4) (s : State) :
    (raiseReceiveFault m s).front = s.front := rfl
@[simp] theorem raiseReceiveFault_back (m : BitVec 4) (s : State) :
    (raiseReceiveFault m s).back = s.back := rfl
@[simp] theorem raiseReceiveFault_storeBase (m : BitVec 4) (s : State) :
    (raiseReceiveFault m s).storeBase = s.storeBase := rfl
@[simp] theorem raiseReceiveFault_constructed (m : BitVec 4) (s : State) :
    (raiseReceiveFault m s).constructed = s.constructed := rfl
@[simp] theorem raiseReceiveFault_threshold (m : BitVec 4) (s : State) :
    (raiseReceiveFault m s).threshold = s.threshold := rfl
@[simp] theorem raiseReceiveFault_delim (m : BitVec 4) (s : State) :
    (raiseReceiveFault m s).delim = s.delim := rfl
@[simp] theorem raiseReceiveFault_rxState (m : BitVec 4) (s : State) :
    (raiseReceiveFault m s).rxState = .faulted := rfl
@[simp] theorem raiseReceiveFault_fault (m : BitVec 4) (s : State) : (raiseReceiveFault m s).fault = m := rfl
@[simp] theorem raiseReceiveFault_phase (m : BitVec 4) (s : State) :
    (raiseReceiveFault m s).phase = .none := rfl
@[simp] theorem raiseReceiveFault_store (m : BitVec 4) (s : State) :
    (raiseReceiveFault m s).store = s.store := rfl
@[simp] theorem raiseReceiveFault_cfg (m : BitVec 4) (s : State) : (raiseReceiveFault m s).cfg = s.cfg := rfl
@[simp] theorem raiseReceiveFault_rst (m : BitVec 4) (s : State) : (raiseReceiveFault m s).rst = s.rst := rfl
@[simp] theorem raiseReceiveFault_sinkReady (m : BitVec 4) (s : State) :
    (raiseReceiveFault m s).sinkReady = s.sinkReady := rfl
@[simp] theorem raiseReceiveFault_commands (m : BitVec 4) (s : State) :
    (raiseReceiveFault m s).commands = s.commands := rfl
@[simp] theorem raiseReceiveFault_source (m : BitVec 4) (s : State) :
    (raiseReceiveFault m s).source = s.source := rfl
@[simp] theorem raiseReceiveFault_moves (m : BitVec 4) (s : State) :
    (raiseReceiveFault m s).moves = s.moves := rfl
@[simp] theorem raiseReceiveFault_responses (m : BitVec 4) (s : State) :
    (raiseReceiveFault m s).responses = s.responses ++ [responseWord .receiveFault (faultByte m)] := rfl
@[simp] theorem raiseReceiveFault_sink (m : BitVec 4) (s : State) :
    (raiseReceiveFault m s).sink = s.sink := rfl
@[simp] theorem raiseReceiveFault_taken (m : BitVec 4) (s : State) :
    (raiseReceiveFault m s).taken = s.taken := rfl
@[simp] theorem raiseReceiveFault_accesses (m : BitVec 4) (s : State) :
    (raiseReceiveFault m s).accesses = s.accesses := rfl
@[simp] theorem raiseReceiveFault_draws (m : BitVec 4) (s : State) :
    (raiseReceiveFault m s).draws = s.draws := rfl
@[simp] theorem raiseReceiveFault_pushed (m : BitVec 4) (s : State) :
    (raiseReceiveFault m s).pushed = s.pushed := rfl
@[simp] theorem raiseReceiveFault_hostKept (m : BitVec 4) (s : State) :
    (raiseReceiveFault m s).hostKept = s.hostKept := rfl

/-! ### `startSession` -/

@[simp] theorem startSession_capacity (s : State) : (startSession s).capacity = s.capacity := rfl
@[simp] theorem startSession_length (s : State) : (startSession s).length = s.length := rfl
@[simp] theorem startSession_front (s : State) : (startSession s).front = s.front := rfl
@[simp] theorem startSession_back (s : State) : (startSession s).back = s.back := rfl
@[simp] theorem startSession_storeBase (s : State) : (startSession s).storeBase = s.storeBase := rfl
@[simp] theorem startSession_constructed (s : State) : (startSession s).constructed = s.constructed := rfl
@[simp] theorem startSession_threshold (s : State) : (startSession s).threshold = s.threshold := rfl
@[simp] theorem startSession_delim (s : State) : (startSession s).delim = s.delim := rfl
@[simp] theorem startSession_rxState (s : State) : (startSession s).rxState = .receiving := rfl
@[simp] theorem startSession_fault (s : State) : (startSession s).fault = 0b0000#4 := rfl
@[simp] theorem startSession_phase (s : State) : (startSession s).phase = .resume := rfl
@[simp] theorem startSession_store (s : State) : (startSession s).store = s.store := rfl
@[simp] theorem startSession_cfg (s : State) : (startSession s).cfg = s.cfg := rfl
@[simp] theorem startSession_rst (s : State) : (startSession s).rst = s.rst := rfl
@[simp] theorem startSession_sinkReady (s : State) : (startSession s).sinkReady = s.sinkReady := rfl
@[simp] theorem startSession_commands (s : State) : (startSession s).commands = s.commands := rfl
@[simp] theorem startSession_source (s : State) : (startSession s).source = s.source := rfl
@[simp] theorem startSession_moves (s : State) : (startSession s).moves = s.moves := rfl
@[simp] theorem startSession_responses (s : State) : (startSession s).responses = s.responses := rfl
@[simp] theorem startSession_sink (s : State) : (startSession s).sink = s.sink := rfl
@[simp] theorem startSession_taken (s : State) : (startSession s).taken = s.taken := rfl
@[simp] theorem startSession_accesses (s : State) : (startSession s).accesses = s.accesses := rfl
@[simp] theorem startSession_draws (s : State) : (startSession s).draws = s.draws := rfl
@[simp] theorem startSession_pushed (s : State) : (startSession s).pushed = s.pushed := rfl
@[simp] theorem startSession_hostKept (s : State) : (startSession s).hostKept = s.hostKept := rfl

/-! ### `resetBlock` -/

@[simp] theorem resetBlock_capacity (s : State) : (resetBlock s).capacity = 0x00#8 := rfl
@[simp] theorem resetBlock_length (s : State) : (resetBlock s).length = 0x00#8 := rfl
@[simp] theorem resetBlock_front (s : State) : (resetBlock s).front = 0x00#8 := rfl
@[simp] theorem resetBlock_back (s : State) : (resetBlock s).back = 0x00#8 := rfl
@[simp] theorem resetBlock_storeBase (s : State) : (resetBlock s).storeBase = 0x0000#16 := rfl
@[simp] theorem resetBlock_constructed (s : State) : (resetBlock s).constructed = false := rfl
@[simp] theorem resetBlock_threshold (s : State) : (resetBlock s).threshold = 0x00#8 := rfl
@[simp] theorem resetBlock_delim (s : State) : (resetBlock s).delim = 0x00#8 := rfl
@[simp] theorem resetBlock_rxState (s : State) : (resetBlock s).rxState = .idle := rfl
@[simp] theorem resetBlock_fault (s : State) : (resetBlock s).fault = 0b0000#4 := rfl
@[simp] theorem resetBlock_phase (s : State) : (resetBlock s).phase = .none := rfl
@[simp] theorem resetBlock_store (s : State) : (resetBlock s).store = s.store := rfl
@[simp] theorem resetBlock_cfg (s : State) : (resetBlock s).cfg = s.cfg := rfl
@[simp] theorem resetBlock_rst (s : State) : (resetBlock s).rst = s.rst := rfl
@[simp] theorem resetBlock_sinkReady (s : State) : (resetBlock s).sinkReady = s.sinkReady := rfl
@[simp] theorem resetBlock_commands (s : State) : (resetBlock s).commands = s.commands := rfl
@[simp] theorem resetBlock_source (s : State) : (resetBlock s).source = s.source := rfl
@[simp] theorem resetBlock_moves (s : State) : (resetBlock s).moves = s.moves := rfl
@[simp] theorem resetBlock_responses (s : State) : (resetBlock s).responses = s.responses := rfl
@[simp] theorem resetBlock_sink (s : State) : (resetBlock s).sink = s.sink := rfl
@[simp] theorem resetBlock_taken (s : State) : (resetBlock s).taken = s.taken := rfl
@[simp] theorem resetBlock_accesses (s : State) : (resetBlock s).accesses = s.accesses := rfl
@[simp] theorem resetBlock_draws (s : State) : (resetBlock s).draws = s.draws := rfl
@[simp] theorem resetBlock_pushed (s : State) : (resetBlock s).pushed = [] := rfl
@[simp] theorem resetBlock_hostKept (s : State) : (resetBlock s).hostKept = true := rfl

/-! ### `hostWrite` -/

@[simp] theorem hostWrite_capacity (a : Addr) (v : Byte) (s : State) :
    (hostWrite a v s).capacity = s.capacity := rfl
@[simp] theorem hostWrite_length (a : Addr) (v : Byte) (s : State) :
    (hostWrite a v s).length = s.length := rfl
@[simp] theorem hostWrite_front (a : Addr) (v : Byte) (s : State) : (hostWrite a v s).front = s.front := rfl
@[simp] theorem hostWrite_back (a : Addr) (v : Byte) (s : State) : (hostWrite a v s).back = s.back := rfl
@[simp] theorem hostWrite_storeBase (a : Addr) (v : Byte) (s : State) :
    (hostWrite a v s).storeBase = s.storeBase := rfl
@[simp] theorem hostWrite_constructed (a : Addr) (v : Byte) (s : State) :
    (hostWrite a v s).constructed = s.constructed := rfl
@[simp] theorem hostWrite_threshold (a : Addr) (v : Byte) (s : State) :
    (hostWrite a v s).threshold = s.threshold := rfl
@[simp] theorem hostWrite_delim (a : Addr) (v : Byte) (s : State) : (hostWrite a v s).delim = s.delim := rfl
@[simp] theorem hostWrite_rxState (a : Addr) (v : Byte) (s : State) :
    (hostWrite a v s).rxState = s.rxState := rfl
@[simp] theorem hostWrite_fault (a : Addr) (v : Byte) (s : State) : (hostWrite a v s).fault = s.fault := rfl
@[simp] theorem hostWrite_phase (a : Addr) (v : Byte) (s : State) : (hostWrite a v s).phase = s.phase := rfl
@[simp] theorem hostWrite_store (a : Addr) (v : Byte) (s : State) :
    (hostWrite a v s).store = Memory.set a.toNat v s.store := rfl
@[simp] theorem hostWrite_cfg (a : Addr) (v : Byte) (s : State) : (hostWrite a v s).cfg = s.cfg := rfl
@[simp] theorem hostWrite_rst (a : Addr) (v : Byte) (s : State) : (hostWrite a v s).rst = s.rst := rfl
@[simp] theorem hostWrite_sinkReady (a : Addr) (v : Byte) (s : State) :
    (hostWrite a v s).sinkReady = s.sinkReady := rfl
@[simp] theorem hostWrite_commands (a : Addr) (v : Byte) (s : State) :
    (hostWrite a v s).commands = s.commands := rfl
@[simp] theorem hostWrite_source (a : Addr) (v : Byte) (s : State) :
    (hostWrite a v s).source = s.source := rfl
@[simp] theorem hostWrite_moves (a : Addr) (v : Byte) (s : State) : (hostWrite a v s).moves = s.moves := rfl
@[simp] theorem hostWrite_responses (a : Addr) (v : Byte) (s : State) :
    (hostWrite a v s).responses = s.responses := rfl
@[simp] theorem hostWrite_sink (a : Addr) (v : Byte) (s : State) : (hostWrite a v s).sink = s.sink := rfl
@[simp] theorem hostWrite_taken (a : Addr) (v : Byte) (s : State) : (hostWrite a v s).taken = s.taken := rfl
@[simp] theorem hostWrite_accesses (a : Addr) (v : Byte) (s : State) :
    (hostWrite a v s).accesses = s.accesses := rfl
@[simp] theorem hostWrite_draws (a : Addr) (v : Byte) (s : State) : (hostWrite a v s).draws = s.draws := rfl
@[simp] theorem hostWrite_pushed (a : Addr) (v : Byte) (s : State) :
    (hostWrite a v s).pushed = s.pushed := rfl
@[simp] theorem hostWrite_hostKept (a : Addr) (v : Byte) (s : State) :
    (hostWrite a v s).hostKept = (s.hostKept && !(s.constructed && isSlot s.storeBase s.capacity a)) := rfl

/-! ### `srcTake` -/

@[simp] theorem srcTake_capacity (rest : List SrcItem) (s : State) :
    (srcTake rest s).capacity = s.capacity := rfl
@[simp] theorem srcTake_length (rest : List SrcItem) (s : State) : (srcTake rest s).length = s.length := rfl
@[simp] theorem srcTake_front (rest : List SrcItem) (s : State) : (srcTake rest s).front = s.front := rfl
@[simp] theorem srcTake_back (rest : List SrcItem) (s : State) : (srcTake rest s).back = s.back := rfl
@[simp] theorem srcTake_storeBase (rest : List SrcItem) (s : State) :
    (srcTake rest s).storeBase = s.storeBase := rfl
@[simp] theorem srcTake_constructed (rest : List SrcItem) (s : State) :
    (srcTake rest s).constructed = s.constructed := rfl
@[simp] theorem srcTake_threshold (rest : List SrcItem) (s : State) :
    (srcTake rest s).threshold = s.threshold := rfl
@[simp] theorem srcTake_delim (rest : List SrcItem) (s : State) : (srcTake rest s).delim = s.delim := rfl
@[simp] theorem srcTake_rxState (rest : List SrcItem) (s : State) :
    (srcTake rest s).rxState = s.rxState := rfl
@[simp] theorem srcTake_fault (rest : List SrcItem) (s : State) : (srcTake rest s).fault = s.fault := rfl
@[simp] theorem srcTake_phase (rest : List SrcItem) (s : State) : (srcTake rest s).phase = s.phase := rfl
@[simp] theorem srcTake_store (rest : List SrcItem) (s : State) : (srcTake rest s).store = s.store := rfl
@[simp] theorem srcTake_cfg (rest : List SrcItem) (s : State) : (srcTake rest s).cfg = s.cfg := rfl
@[simp] theorem srcTake_rst (rest : List SrcItem) (s : State) : (srcTake rest s).rst = s.rst := rfl
@[simp] theorem srcTake_sinkReady (rest : List SrcItem) (s : State) :
    (srcTake rest s).sinkReady = s.sinkReady := rfl
@[simp] theorem srcTake_commands (rest : List SrcItem) (s : State) :
    (srcTake rest s).commands = s.commands := rfl
@[simp] theorem srcTake_source (rest : List SrcItem) (s : State) : (srcTake rest s).source = rest := rfl
@[simp] theorem srcTake_moves (rest : List SrcItem) (s : State) : (srcTake rest s).moves = s.moves := rfl
@[simp] theorem srcTake_responses (rest : List SrcItem) (s : State) :
    (srcTake rest s).responses = s.responses := rfl
@[simp] theorem srcTake_sink (rest : List SrcItem) (s : State) : (srcTake rest s).sink = s.sink := rfl
@[simp] theorem srcTake_taken (rest : List SrcItem) (s : State) : (srcTake rest s).taken = s.taken + 1 := rfl
@[simp] theorem srcTake_accesses (rest : List SrcItem) (s : State) :
    (srcTake rest s).accesses = s.accesses := rfl
@[simp] theorem srcTake_draws (rest : List SrcItem) (s : State) : (srcTake rest s).draws = s.draws := rfl
@[simp] theorem srcTake_pushed (rest : List SrcItem) (s : State) : (srcTake rest s).pushed = s.pushed := rfl
@[simp] theorem srcTake_hostKept (rest : List SrcItem) (s : State) :
    (srcTake rest s).hostKept = s.hostKept := rfl

/-! ### `commandTaken` -/

@[simp] theorem commandTaken_capacity (s : State) : (commandTaken s).capacity = s.capacity := rfl
@[simp] theorem commandTaken_length (s : State) : (commandTaken s).length = s.length := rfl
@[simp] theorem commandTaken_front (s : State) : (commandTaken s).front = s.front := rfl
@[simp] theorem commandTaken_back (s : State) : (commandTaken s).back = s.back := rfl
@[simp] theorem commandTaken_storeBase (s : State) : (commandTaken s).storeBase = s.storeBase := rfl
@[simp] theorem commandTaken_constructed (s : State) : (commandTaken s).constructed = s.constructed := rfl
@[simp] theorem commandTaken_threshold (s : State) : (commandTaken s).threshold = s.threshold := rfl
@[simp] theorem commandTaken_delim (s : State) : (commandTaken s).delim = s.delim := rfl
@[simp] theorem commandTaken_rxState (s : State) : (commandTaken s).rxState = s.rxState := rfl
@[simp] theorem commandTaken_fault (s : State) : (commandTaken s).fault = s.fault := rfl
@[simp] theorem commandTaken_phase (s : State) : (commandTaken s).phase = s.phase := rfl
@[simp] theorem commandTaken_store (s : State) : (commandTaken s).store = s.store := rfl
@[simp] theorem commandTaken_cfg (s : State) : (commandTaken s).cfg = s.cfg := rfl
@[simp] theorem commandTaken_rst (s : State) : (commandTaken s).rst = s.rst := rfl
@[simp] theorem commandTaken_sinkReady (s : State) : (commandTaken s).sinkReady = s.sinkReady := rfl
@[simp] theorem commandTaken_commands (s : State) : (commandTaken s).commands = s.commands.tail := rfl
@[simp] theorem commandTaken_source (s : State) : (commandTaken s).source = s.source := rfl
@[simp] theorem commandTaken_moves (s : State) : (commandTaken s).moves = s.moves.tail := rfl
@[simp] theorem commandTaken_responses (s : State) : (commandTaken s).responses = s.responses := rfl
@[simp] theorem commandTaken_sink (s : State) : (commandTaken s).sink = s.sink := rfl
@[simp] theorem commandTaken_taken (s : State) : (commandTaken s).taken = s.taken := rfl
@[simp] theorem commandTaken_accesses (s : State) : (commandTaken s).accesses = s.accesses := rfl
@[simp] theorem commandTaken_draws (s : State) : (commandTaken s).draws = s.draws := rfl
@[simp] theorem commandTaken_pushed (s : State) : (commandTaken s).pushed = s.pushed := rfl
@[simp] theorem commandTaken_hostKept (s : State) : (commandTaken s).hostKept = s.hostKept := rfl

end Sys2Proof.Machine
end

