-- ==== Sys2Proof/Laws/Ops.lean ====
section
/-! SUPPORT. One inversion lemma for each shared operation that checks: it says once everything the
operation can do, guards included (`60_exceptions.md` R219). The provers cite these instead of unfolding. -/

namespace Sys2Proof.Machine

open Sys2Proof

theorem pushChecked_cases (place : State → State) (s : State) :
    (s.constructed = false ∧ pushChecked place s = respond .notConstructed 0x00#8 s) ∨
    (s.constructed = true ∧ s.length = s.capacity ∧ pushChecked place s = respond .full 0x00#8 s) ∨
    (s.constructed = true ∧ s.length ≠ s.capacity ∧
      pushChecked place s = respond .ok 0x00#8 (place s)) := by
  unfold pushChecked
  cases s.constructed <;> by_cases h : s.length = s.capacity <;> simp [h]

theorem takeChecked_cases (take : State → Byte × State) (s : State) :
    (s.constructed = false ∧ takeChecked take s = respondAny8 .notConstructed s) ∨
    (s.constructed = true ∧ s.length = 0#8 ∧ takeChecked take s = respondAny8 .empty s) ∨
    (s.constructed = true ∧ s.length ≠ 0#8 ∧
      takeChecked take s = respond .ok (take s).1 (take s).2) := by
  unfold takeChecked
  cases s.constructed <;> by_cases h : s.length = 0#8 <;> simp [h]

theorem answerChecked_cases (p : Bool) (s : State) :
    (s.constructed = false ∧ answerChecked p s = respond .notConstructed 0x00#8 s) ∨
    (s.constructed = true ∧
      answerChecked p s = respond .ok (if p then 0x01#8 else 0x00#8) s) := by
  unfold answerChecked
  cases s.constructed <;> simp

theorem clean_eq_false (it : SrcItem) :
    it.clean = false ↔ (it.perr || it.ferr || it.oerr) = true := by
  cases hp : it.perr <;> cases hf : it.ferr <;> cases ho : it.oerr <;> simp [SrcItem.clean, hp, hf, ho]

theorem receiveItem_cases (it : SrcItem) (s : State) :
    (it.clean = false ∧ receiveItem it s = raiseReceiveFault (diagnosticMask it) s) ∨
    (it.clean = true ∧ s.length = s.capacity ∧ receiveItem it s = raiseReceiveFault 0b1000#4 s) ∨
    (it.clean = true ∧ s.length ≠ s.capacity ∧ stopCondition it.data (placeBack it.data s) = true ∧
      receiveItem it s = { placeBack it.data s with phase := .pause }) ∨
    (it.clean = true ∧ s.length ≠ s.capacity ∧ stopCondition it.data (placeBack it.data s) = false ∧
      receiveItem it s = placeBack it.data s) := by
  unfold receiveItem
  cases hc : it.clean with
  | false =>
    have := (clean_eq_false it).1 hc
    simp [this]
  | true =>
    have hd : (it.perr || it.ferr || it.oerr) = false := by
      cases h : (it.perr || it.ferr || it.oerr) with
      | false => rfl
      | true => rw [(clean_eq_false it).2 h] at hc; cases hc
    by_cases h : s.length = s.capacity <;>
      cases hs : stopCondition it.data (placeBack it.data s) <;> simp_all

theorem seqResume_cases (s : State) :
    (s.sinkReady = false ∧ seqResume s = s) ∨
    (s.sinkReady = true ∧ seqResume s = { snkWrite s.cfg.resumeCode s with phase := .byte }) := by
  unfold seqResume
  cases s.sinkReady <;> simp

theorem seqByte_cases (s : State) :
    (s.source = [] ∧ seqByte s = s) ∨
    (∃ it rest, s.source = it :: rest ∧ seqByte s = receiveItem it (srcTake rest s)) := by
  unfold seqByte
  cases s.source with
  | nil => exact .inl ⟨rfl, rfl⟩
  | cons it rest => exact .inr ⟨it, rest, rfl, rfl⟩

theorem seqPause_cases (s : State) :
    (s.sinkReady = false ∧ seqPause s = s) ∨
    (s.sinkReady = true ∧ seqPause s =
      respond .ok 0x00#8 { snkWrite s.cfg.pauseCode s with rxState := .completed, phase := .none }) := by
  unfold seqPause
  cases s.sinkReady <;> simp

end Sys2Proof.Machine
end

