-- ==== Sys2Proof/Laws/Step.lean ====
section
/-! SUPPORT. What a command and a step can do, said once: every command answers a next state, and a step is
either one move of the environment or one of the block's (`00_scope.md` R9). -/

namespace Sys2Proof.Machine

open Sys2Proof

/-- Every command of the table answers a next state, in every state. -/
theorem exec_next (i : Instr) (s : State) : ∃ t, exec i s = .next t := by
  cases i <;> simp only [exec] <;> (try exact ⟨_, rfl⟩)
  · unfold execConstruct; split <;> (try split) <;> exact ⟨_, rfl⟩
  · unfold execRxStart; split <;> (try split) <;> (try split) <;> exact ⟨_, rfl⟩
  · unfold execRdreg; split <;> exact ⟨_, rfl⟩

theorem execConstruct_cases (store : Addr) (capacity : Byte) (s : State) :
    (capacity = 0#8 ∧ execConstruct store capacity s = .next (respond .zeroCapacity 0x00#8 s)) ∨
    (capacity ≠ 0#8 ∧ store = 0x0000#16 ∧
      execConstruct store capacity s = .next (respond .nullBackingStore 0x00#8 s)) ∨
    (capacity ≠ 0#8 ∧ store ≠ 0x0000#16 ∧
      execConstruct store capacity s = .next (respond .ok 0x00#8 (newQueue store capacity s))) := by
  unfold execConstruct
  by_cases hc : capacity = 0#8 <;> by_cases hs : store = 0x0000#16 <;> simp [hc, hs]

theorem execRxStart_cases (s : State) :
    (s.constructed = false ∧ execRxStart s = .next (respond .notConstructed 0x00#8 s)) ∨
    (s.constructed = true ∧ (s.rxState = .faulted ∧ s.cfg.faultPolicy = .halt) ∧
      execRxStart s = .next (respond .halted 0x00#8 s)) ∨
    (s.constructed = true ∧ ¬(s.rxState = .faulted ∧ s.cfg.faultPolicy = .halt) ∧
      (s.threshold = 0#8 ∨ s.capacity.toNat < s.threshold.toNat) ∧
      execRxStart s = .next (respond .badThreshold 0x00#8 s)) ∨
    (s.constructed = true ∧ ¬(s.rxState = .faulted ∧ s.cfg.faultPolicy = .halt) ∧
      ¬(s.threshold = 0#8 ∨ s.capacity.toNat < s.threshold.toNat) ∧
      execRxStart s = .next (startSession s)) := by
  unfold execRxStart
  cases hc : s.constructed
  · simp
  · by_cases hh : s.rxState = .faulted ∧ s.cfg.faultPolicy = .halt
    · simp [hh]
    · by_cases ht : s.threshold = 0#8 ∨ s.capacity.toNat < s.threshold.toNat
      · simp only [hh, ht]; simp
      · simp only [hh, ht]; simp

theorem execRdreg_cases (n : Byte) (s : State) :
    (∃ v, regRead n s = some v ∧ execRdreg n s = .next (respond .ok v s)) ∨
    (regRead n s = none ∧ execRdreg n s = .next (respond .badRegister 0x00#8 s)) := by
  unfold execRdreg
  cases h : regRead n s with
  | none => exact .inr ⟨rfl, rfl⟩
  | some v => exact .inl ⟨v, rfl, rfl⟩

theorem execWord_cases (w : CmdWord) (s : State) :
    (∃ i, decode w = .legal i ∧ execWord w s = exec i s) ∨
    (∃ why, decode w = .illegal why ∧ execWord w s = .next (answerIllegal s)) := by
  unfold execWord
  cases h : decode w with
  | legal i => exact .inl ⟨i, rfl, rfl⟩
  | illegal why => exact .inr ⟨why, rfl, rfl⟩

theorem takeCommand_cases (s : State) :
    (s.commands = [] ∧ takeCommand s = .next s) ∨
    (∃ w rest, s.commands = w :: rest ∧ takeCommand s = execWord w { s with commands := rest }) := by
  unfold takeCommand
  cases s.commands with
  | nil => exact .inl ⟨rfl, rfl⟩
  | cons w rest => exact .inr ⟨w, rest, rfl, rfl⟩

theorem blockStep_cases (s : State) :
    (s.rst = true ∧ blockStep s = .next (resetBlock s)) ∨
    (s.rst = false ∧ s.phase = .none ∧ blockStep s = takeCommand s) ∨
    (s.rst = false ∧ s.phase = .resume ∧ blockStep s = .next (seqResume s)) ∨
    (s.rst = false ∧ s.phase = .byte ∧ blockStep s = .next (seqByte s)) ∨
    (s.rst = false ∧ s.phase = .pause ∧ blockStep s = .next (seqPause s)) := by
  unfold blockStep
  cases s.rst <;> cases s.phase <;> simp

/-- A step is a move of the environment, or a step of the block with its clock spent. -/
theorem step_cases (s : State) :
    (clockEdge s = false ∧ ∃ m rest, s.moves = m :: rest ∧ m ≠ .clock ∧
      step s = .next (envMove m { s with moves := rest })) ∨
    (clockEdge s = true ∧ step s = blockStep { s with moves := s.moves.tail }) := by
  unfold step machineStep clockEdge
  cases h : s.moves with
  | nil =>
    have hs : ({ s with moves := List.tail [] } : State) = s := by cases s; simp_all
    exact .inr ⟨rfl, by rw [hs]⟩
  | cons m rest =>
    cases m
    · exact .inr ⟨rfl, rfl⟩
    all_goals exact .inl ⟨rfl, _, rest, rfl, by simp, rfl⟩

theorem step_edge {s : State} (h : clockEdge s = true) :
    step s = blockStep { s with moves := s.moves.tail } := by
  rcases step_cases s with ⟨h', _⟩ | ⟨_, h'⟩
  · rw [h] at h'; cases h'
  · exact h'

/-- What one step can do, said whole: `u` is `s` with its clock spent. -/
inductive StepDoes (s : State) : State → Prop
  /-- A move of the environment. -/
  | environment (m : EnvMove) (rest : List EnvMove) (hm : s.moves = m :: rest) (hc : m ≠ .clock)
      (edge : clockEdge s = false) : StepDoes s (envMove m { s with moves := rest })
  /-- Reset. -/
  | reset (edge : clockEdge s = true) (hr : s.rst = true) :
      StepDoes s (resetBlock { s with moves := s.moves.tail })
  /-- Nothing to do: no command offered, or the sequencer waits. -/
  | wait (p : Phase) (hp : InPhase s p)
      (h : (p = .none ∧ s.commands = []) ∨ (p = .resume ∧ s.sinkReady = false) ∨
        (p = .byte ∧ s.source = []) ∨ (p = .pause ∧ s.sinkReady = false)) :
      StepDoes s { s with moves := s.moves.tail }
  /-- An illegal word. -/
  | illegal (w : CmdWord) (rest : List CmdWord) (why : Illegal) (hp : InPhase s .none)
      (hw : s.commands = w :: rest) (hd : decode w = .illegal why) :
      StepDoes s (answerIllegal (commandTaken s))
  /-- A command. -/
  | command (i : Instr) (t : State) (hp : InPhase s .none) (hi : Issues s i)
      (he : exec i (commandTaken s) = .next t) : StepDoes s t
  /-- `SEQ_RESUME`. -/
  | resume (hp : InPhase s .resume) (hr : s.sinkReady = true) :
      StepDoes s { snkWrite s.cfg.resumeCode { s with moves := s.moves.tail } with phase := .byte }
  /-- `SEQ_BYTE`. -/
  | byte (it : SrcItem) (rest : List SrcItem) (hp : InPhase s .byte) (hs : s.source = it :: rest) :
      StepDoes s (receiveItem it (srcTake rest { s with moves := s.moves.tail }))
  /-- `SEQ_PAUSE`. -/
  | pause (hp : InPhase s .pause) (hr : s.sinkReady = true) :
      StepDoes s (respond .ok 0x00#8 { snkWrite s.cfg.pauseCode { s with moves := s.moves.tail } with
        rxState := .completed, phase := .none })

/-- Every step does one of these. -/
theorem step_does {s t : State} (h : step s = .next t) : StepDoes s t := by
  rcases step_cases s with ⟨hc, m, rest, hm, hne, hs⟩ | ⟨hc, hs⟩
  · rw [hs] at h
    cases h
    exact .environment m rest hm hne hc
  · rw [hs] at h
    rcases blockStep_cases { s with moves := s.moves.tail } with
      ⟨hr, hb⟩ | ⟨hr, hp, hb⟩ | ⟨hr, hp, hb⟩ | ⟨hr, hp, hb⟩ | ⟨hr, hp, hb⟩ <;> rw [hb] at h
    · cases h
      exact .reset hc hr
    · rcases takeCommand_cases { s with moves := s.moves.tail } with ⟨he, ht⟩ | ⟨w, rest, hw, ht⟩ <;>
        rw [ht] at h
      · cases h
        exact .wait .none ⟨hc, hr, hp⟩ (.inl ⟨rfl, he⟩)
      · have hw' : s.commands = w :: rest := hw
        have hct : { s with moves := s.moves.tail, commands := rest } = commandTaken s := by
          simp [commandTaken, hw']
        rw [hct] at h
        rcases execWord_cases w (commandTaken s) with ⟨i, hd, hx⟩ | ⟨why, hd, hx⟩ <;> rw [hx] at h
        · exact .command i t ⟨hc, hr, hp⟩ ⟨hc, hr, hp, w, rest, hw, hd⟩ h
        · cases h
          exact .illegal w rest why ⟨hc, hr, hp⟩ hw hd
    · cases h
      rcases seqResume_cases { s with moves := s.moves.tail } with ⟨hk, ht⟩ | ⟨hk, ht⟩ <;> rw [ht]
      · exact .wait .resume ⟨hc, hr, hp⟩ (.inr (.inl ⟨rfl, hk⟩))
      · exact .resume ⟨hc, hr, hp⟩ hk
    · cases h
      rcases seqByte_cases { s with moves := s.moves.tail } with ⟨hk, ht⟩ | ⟨it, rest, hk, ht⟩ <;> rw [ht]
      · exact .wait .byte ⟨hc, hr, hp⟩ (.inr (.inr (.inl ⟨rfl, hk⟩)))
      · exact .byte it rest ⟨hc, hr, hp⟩ hk
    · cases h
      rcases seqPause_cases { s with moves := s.moves.tail } with ⟨hk, ht⟩ | ⟨hk, ht⟩ <;> rw [ht]
      · exact .wait .pause ⟨hc, hr, hp⟩ (.inr (.inr (.inr ⟨rfl, hk⟩)))
      · exact .pause ⟨hc, hr, hp⟩ hk

end Sys2Proof.Machine
end

