-- ==== Sys2Proof/Laws/Exec.lean ====
section
/-! SUPPORT. What a command can do, said once for each: the answers without effect, and the one effect it
has when it succeeds. A statement over all commands is a case analysis of `exec_does`. -/

namespace Sys2Proof.Machine

open Sys2Proof

/-- What a command can do from `s`, guards included. -/
inductive ExecDoes (s : State) : Instr → State → Prop
  /-- A fixed answer and nothing else: every failure but those of pops and peeks, the predicates, `RDREG`. -/
  | answers (i : Instr) (st : Status) (d : Byte)
      (h : st ≠ .ok ∨ i = .isFull ∨ i = .isEmpty ∨ ∃ n, i = .rdreg n) : ExecDoes s i (respond st d s)
  /-- A failing pop or peek: the data is a free value. -/
  | answersAny (i : Instr) (st : Status) (hi : (slotRead i s).isSome = true) (h : st = .notConstructed ∨ st = .empty) :
      ExecDoes s i (respondAny8 st s)
  | construct (store : Addr) (capacity : Byte) (hs : store ≠ 0x0000#16) (hc : capacity ≠ 0#8) :
      ExecDoes s (.construct store capacity) (respond .ok 0x00#8 (newQueue store capacity s))
  | pushBack (d : Byte) (hc : s.constructed = true) (hl : s.length ≠ s.capacity) :
      ExecDoes s (.pushBack d) (respond .ok 0x00#8 (placeBack d s))
  | pushFront (d : Byte) (hc : s.constructed = true) (hl : s.length ≠ s.capacity) :
      ExecDoes s (.pushFront d) (respond .ok 0x00#8 (placeFront d s))
  | popBack (hc : s.constructed = true) (hl : s.length ≠ 0#8) :
      ExecDoes s .popBack (respond .ok (takeBack s).1 (takeBack s).2)
  | popFront (hc : s.constructed = true) (hl : s.length ≠ 0#8) :
      ExecDoes s .popFront (respond .ok (takeFront s).1 (takeFront s).2)
  | peekFront (hc : s.constructed = true) (hl : s.length ≠ 0#8) :
      ExecDoes s .peekFront (respond .ok (lookFront s).1 (lookFront s).2)
  | peekBack (hc : s.constructed = true) (hl : s.length ≠ 0#8) :
      ExecDoes s .peekBack (respond .ok (lookBack s).1 (lookBack s).2)
  | rxConfig (threshold delimiter : Byte) :
      ExecDoes s (.rxConfig threshold delimiter)
        (respond .ok 0x00#8 { s with threshold := threshold, delim := delimiter })
  | rxStart (hc : s.constructed = true) (hf : ¬(s.rxState = .faulted ∧ s.cfg.faultPolicy = .halt))
      (ht : ¬(s.threshold = 0#8 ∨ s.capacity.toNat < s.threshold.toNat)) :
      ExecDoes s .rxStart (startSession s)

/-- Every command does one of these. -/
theorem exec_does {i : Instr} {s t : State} (h : exec i s = .next t) : ExecDoes s i t := by
  cases i with
  | construct store capacity =>
    change execConstruct _ _ _ = _ at h
    rcases execConstruct_cases store capacity s with ⟨_, e⟩ | ⟨_, _, e⟩ | ⟨hc, hs, e⟩ <;> rw [e] at h <;> cases h
    · exact .answers _ _ _ (.inl (by simp))
    · exact .answers _ _ _ (.inl (by simp))
    · exact .construct _ _ hs hc
  | pushBack d =>
    cases h
    rcases pushChecked_cases (placeBack d) s with ⟨_, e⟩ | ⟨_, _, e⟩ | ⟨hc, hl, e⟩ <;> rw [e]
    · exact .answers _ _ _ (.inl (by simp))
    · exact .answers _ _ _ (.inl (by simp))
    · exact .pushBack d hc hl
  | pushFront d =>
    cases h
    rcases pushChecked_cases (placeFront d) s with ⟨_, e⟩ | ⟨_, _, e⟩ | ⟨hc, hl, e⟩ <;> rw [e]
    · exact .answers _ _ _ (.inl (by simp))
    · exact .answers _ _ _ (.inl (by simp))
    · exact .pushFront d hc hl
  | popBack =>
    cases h
    rcases takeChecked_cases takeBack s with ⟨_, e⟩ | ⟨_, _, e⟩ | ⟨hc, hl, e⟩ <;> rw [e]
    · exact .answersAny _ _ rfl (.inl rfl)
    · exact .answersAny _ _ rfl (.inr rfl)
    · exact .popBack hc hl
  | popFront =>
    cases h
    rcases takeChecked_cases takeFront s with ⟨_, e⟩ | ⟨_, _, e⟩ | ⟨hc, hl, e⟩ <;> rw [e]
    · exact .answersAny _ _ rfl (.inl rfl)
    · exact .answersAny _ _ rfl (.inr rfl)
    · exact .popFront hc hl
  | isFull =>
    cases h
    rcases answerChecked_cases (s.length == s.capacity) s with ⟨_, e⟩ | ⟨_, e⟩ <;> rw [e]
    · exact .answers _ _ _ (.inl (by simp))
    · exact .answers _ _ _ (.inr (.inl rfl))
  | isEmpty =>
    cases h
    rcases answerChecked_cases (s.length == 0#8) s with ⟨_, e⟩ | ⟨_, e⟩ <;> rw [e]
    · exact .answers _ _ _ (.inl (by simp))
    · exact .answers _ _ _ (.inr (.inr (.inl rfl)))
  | peekFront =>
    cases h
    rcases takeChecked_cases lookFront s with ⟨_, e⟩ | ⟨_, _, e⟩ | ⟨hc, hl, e⟩ <;> rw [e]
    · exact .answersAny _ _ rfl (.inl rfl)
    · exact .answersAny _ _ rfl (.inr rfl)
    · exact .peekFront hc hl
  | peekBack =>
    cases h
    rcases takeChecked_cases lookBack s with ⟨_, e⟩ | ⟨_, _, e⟩ | ⟨hc, hl, e⟩ <;> rw [e]
    · exact .answersAny _ _ rfl (.inl rfl)
    · exact .answersAny _ _ rfl (.inr rfl)
    · exact .peekBack hc hl
  | rxConfig threshold delimiter =>
    cases h
    exact .rxConfig threshold delimiter
  | rxStart =>
    change execRxStart _ = _ at h
    rcases execRxStart_cases s with ⟨_, e⟩ | ⟨_, _, e⟩ | ⟨_, _, _, e⟩ | ⟨hc, hh, ht, e⟩ <;> rw [e] at h <;> cases h
    · exact .answers _ _ _ (.inl (by simp))
    · exact .answers _ _ _ (.inl (by simp))
    · exact .answers _ _ _ (.inl (by simp))
    · exact .rxStart hc hh ht
  | rdreg n =>
    change execRdreg _ _ = _ at h
    rcases execRdreg_cases n s with ⟨v, _, e⟩ | ⟨_, e⟩ <;> rw [e] at h <;> cases h
    · exact .answers _ _ _ (.inr (.inr (.inr ⟨n, rfl⟩)))
    · exact .answers _ _ _ (.inl (by simp))

end Sys2Proof.Machine
end

