-- ==== Sys2Proof/Laws/Memory.lean ====
section
/-! SUPPORT. The laws of the STORE memory (`20_memory.md` R62): read after write, other addresses, the
canonical form and what it is for. -/

namespace Sys2Proof.Machine

open Sys2Proof

theorem Memory.get?_set_same (a : Nat) (v : Byte) (m : Memory) :
    Memory.get? a (Memory.set a v m) = some v := by
  induction m with
  | nil => simp [Memory.set, Memory.get?]
  | cons c m ih =>
    obtain ⟨b, w⟩ := c
    simp only [Memory.set]
    split
    · simp [Memory.get?]
    · split
      · simp [Memory.get?]
      · simp [Memory.get?, *]

theorem Memory.get?_set_other {a b : Nat} (h : b ≠ a) (v : Byte) (m : Memory) :
    Memory.get? b (Memory.set a v m) = Memory.get? b m := by
  induction m with
  | nil => simp [Memory.set, Memory.get?, h]
  | cons c m ih =>
    obtain ⟨d, w⟩ := c
    simp only [Memory.set]
    split
    · simp [Memory.get?, h]
    · split
      · next hd => subst hd; simp [Memory.get?, h]
      · simp [Memory.get?, ih]

theorem Memory.get?_set (a b : Nat) (v : Byte) (m : Memory) :
    Memory.get? b (Memory.set a v m) = if b = a then some v else Memory.get? b m := by
  split
  · next h => subst h; exact Memory.get?_set_same b v m
  · next h => exact Memory.get?_set_other h v m

/-- A listed address stays listed. -/
theorem Memory.get?_set_listed {b : Nat} {m : Memory} (h : ∃ w, Memory.get? b m = some w) (a : Nat) (v : Byte) :
    ∃ w, Memory.get? b (Memory.set a v m) = some w := by
  rw [Memory.get?_set]
  split
  · exact ⟨v, rfl⟩
  · exact h

theorem Memory.read_set (a b : Addr) (v : Byte) (m : Memory) :
    Memory.read (Memory.set a.toNat v m) b = if b = a then v else Memory.read m b := by
  by_cases h : b = a <;> simp [Memory.read, Memory.get?_set, h, BitVec.toNat_inj]

@[simp] theorem Memory.read_set_same (a : Addr) (v : Byte) (m : Memory) :
    Memory.read (Memory.set a.toNat v m) a = v := by
  simp [Memory.read_set]

theorem Memory.read_set_other {a b : Addr} (h : b ≠ a) (v : Byte) (m : Memory) :
    Memory.read (Memory.set a.toNat v m) b = Memory.read m b := by
  simp [Memory.read_set, h]

theorem Memory.sortedFrom_mono {low high : Nat} (h : low ≤ high) {m : Memory}
    (hm : Memory.sortedFrom high m = true) : Memory.sortedFrom low m = true := by
  cases m with
  | nil => rfl
  | cons c m =>
    simp only [Memory.sortedFrom, Bool.and_eq_true, decide_eq_true_eq] at hm ⊢
    exact ⟨⟨by omega, hm.1.2⟩, hm.2⟩

theorem Memory.sortedFrom_set {low a : Nat} (hl : low ≤ a) (ha : a < 2 ^ 16) (v : Byte) {m : Memory}
    (hm : Memory.sortedFrom low m = true) : Memory.sortedFrom low (Memory.set a v m) = true := by
  induction m generalizing low with
  | nil => simp only [Memory.set, Memory.sortedFrom, hl, ha, decide_true, Bool.and_self]
  | cons c m ih =>
    obtain ⟨b, w⟩ := c
    simp only [Memory.sortedFrom, Bool.and_eq_true, decide_eq_true_eq] at hm
    obtain ⟨⟨hlb, hb⟩, hrest⟩ := hm
    simp only [Memory.set]
    split
    · next h =>
      simp only [Memory.sortedFrom, Bool.and_eq_true, decide_eq_true_eq]
      exact ⟨⟨hl, ha⟩, ⟨h, hb⟩, hrest⟩
    · split
      · next h =>
        subst h
        simp only [Memory.sortedFrom, Bool.and_eq_true, decide_eq_true_eq]
        exact ⟨⟨hl, ha⟩, hrest⟩
      · next h₁ h₂ =>
        simp only [Memory.sortedFrom, Bool.and_eq_true, decide_eq_true_eq]
        exact ⟨⟨hlb, hb⟩, ih (by omega) hrest⟩

/-- A write keeps the canonical form. It is the only operation that changes the memory. -/
theorem Memory.wf_set (a : Addr) (v : Byte) {m : Memory} (hm : Memory.wf m = true) :
    Memory.wf (Memory.set a.toNat v m) = true :=
  Memory.sortedFrom_set (Nat.zero_le _) a.isLt v hm

theorem Memory.wf_reset : Memory.wf State.reset.store = true := rfl

theorem Memory.get?_below {low a : Nat} (h : a < low) {m : Memory}
    (hm : Memory.sortedFrom low m = true) : Memory.get? a m = none := by
  induction m generalizing low with
  | nil => rfl
  | cons c m ih =>
    obtain ⟨b, w⟩ := c
    simp only [Memory.sortedFrom, Bool.and_eq_true, decide_eq_true_eq] at hm
    simp only [Memory.get?]
    rw [if_neg (by omega)]
    exact ih (low := b + 1) (by omega) hm.2

theorem Memory.eq_of_get?_from {low : Nat} {m n : Memory} (hm : Memory.sortedFrom low m = true)
    (hn : Memory.sortedFrom low n = true) (h : ∀ a, Memory.get? a m = Memory.get? a n) : m = n := by
  induction m generalizing low n with
  | nil =>
    cases n with
    | nil => rfl
    | cons c n => simpa [Memory.get?] using h c.1
  | cons c m ih =>
    obtain ⟨b, w⟩ := c
    cases n with
    | nil => simpa [Memory.get?] using h b
    | cons d n =>
      obtain ⟨e, x⟩ := d
      simp only [Memory.sortedFrom, Bool.and_eq_true, decide_eq_true_eq] at hm hn
      have hbe : b = e := by
        by_contra hne
        rcases Nat.lt_or_gt_of_ne hne with hlt | hlt
        · have := h b
          rw [Memory.get?, if_pos rfl, Memory.get?, if_neg hne,
            Memory.get?_below (low := e + 1) (by omega) hn.2] at this
          exact absurd this (by simp)
        · have := h e
          rw [Memory.get?, if_neg (Ne.symm hne), Memory.get?, if_pos rfl,
            Memory.get?_below (low := b + 1) (by omega) hm.2] at this
          exact absurd this (by simp)
      subst hbe
      have hw : w = x := by simpa [Memory.get?] using h b
      subst hw
      have : m = n := by
        refine ih hm.2 hn.2 (fun a => ?_)
        by_cases hab : a = b
        · subst hab
          rw [Memory.get?_below (Nat.lt_succ_self a) hm.2, Memory.get?_below (Nat.lt_succ_self a) hn.2]
        · simpa [Memory.get?, hab] using h a
      rw [this]

/-- Equal contents are equal data: what the canonical form is for. -/
theorem Memory.eq_of_get? {m n : Memory} (hm : Memory.wf m = true) (hn : Memory.wf n = true)
    (h : ∀ a, Memory.get? a m = Memory.get? a n) : m = n :=
  Memory.eq_of_get?_from hm hn h

end Sys2Proof.Machine
end

