-- ==== Sys2Proof/Laws/Operands.lean ====
section
/-! SUPPORT. The index arithmetic over the natural numbers (`40_ringbuffer_ops.md` R140, R141): each
operation's value inside the range the rules use it in, and the slots of a region are distinct (R63). -/

namespace Sys2Proof.Machine

open Sys2Proof

theorem toReg8_toNat {n : Nat} (h : n < 256) : (toReg8 n).toNat = n := by
  simp [toReg8, h]

theorem toReg8_of_byte (b : Byte) : toReg8 b.toNat = b := by
  simp [toReg8, b.isLt]

theorem toReg8_succ {l c : Byte} (h : l.toNat < c.toNat) : (toReg8 (l.toNat + 1)).toNat = l.toNat + 1 :=
  toReg8_toNat (by have := c.isLt; omega)

theorem toReg8_pred (l : Byte) : (toReg8 (l.toNat - 1)).toNat = l.toNat - 1 :=
  toReg8_toNat (by have := l.isLt; omega)

theorem byte_lt_of_ne {l c : Byte} (h : l ≠ c) (hle : l.toNat ≤ c.toNat) : l.toNat < c.toNat :=
  Nat.lt_of_le_of_ne hle fun e => h (BitVec.eq_of_toNat_eq e)

theorem byte_pos_of_ne {l : Byte} (h : l ≠ 0#8) : 0 < l.toNat :=
  Nat.pos_of_ne_zero fun e => h (BitVec.eq_of_toNat_eq e)

theorem modCapacity_toNat {c : Byte} (h : 0 < c.toNat) (n : Nat) :
    (modCapacity n c).toNat = n % c.toNat := by
  have hc : c ≠ 0#8 := fun h0 => by subst h0; exact absurd h (by decide)
  rw [modCapacity, if_neg hc, toReg8_toNat]
  exact Nat.lt_trans (Nat.mod_lt _ h) c.isLt

theorem advance_toNat {c : Byte} (h : 0 < c.toNat) (i : Byte) :
    (advance c i).toNat = (i.toNat + 1) % c.toNat := modCapacity_toNat h _

theorem retreat_toNat {c : Byte} (h : 0 < c.toNat) (i : Byte) :
    (retreat c i).toNat = (i.toNat + c.toNat - 1) % c.toNat := modCapacity_toNat h _

theorem advance_lt {c : Byte} (h : 0 < c.toNat) (i : Byte) : (advance c i).toNat < c.toNat := by
  rw [advance_toNat h]; exact Nat.mod_lt _ h

theorem retreat_lt {c : Byte} (h : 0 < c.toNat) (i : Byte) : (retreat c i).toNat < c.toNat := by
  rw [retreat_toNat h]; exact Nat.mod_lt _ h

@[simp] theorem slot_toNat (base : Addr) (i : Byte) :
    (slot base i).toNat = (base.toNat + i.toNat) % 2 ^ 16 := by
  simp [slot]

/-- Two slots of one region are two addresses: a region has at most 255 of 2^16. -/
theorem slot_inj {base : Addr} {i j : Byte} (h : slot base i = slot base j) : i = j := by
  have h' := congrArg BitVec.toNat h
  rw [slot_toNat, slot_toNat] at h'
  apply BitVec.eq_of_toNat_eq
  have := i.isLt
  have := j.isLt
  have := base.isLt
  omega

/-- Counting from a retreated front: one more step reaches what one less reached before. -/
theorem retreated_mod {c f : Nat} (hf : f < c) (k : Nat) :
    ((f + c - 1) % c + (k + 1)) % c = (f + k) % c := by
  rw [Nat.mod_add_mod, show f + c - 1 + (k + 1) = f + k + c by omega, Nat.add_mod_right]

/-- The retreat of the slot behind the last element is the slot of the last element. -/
theorem retreat_back_mod {c f l : Nat} (hc : 0 < c) (hl : 0 < l) :
    ((f + l) % c + c - 1) % c = (f + (l - 1)) % c := by
  rw [Nat.add_sub_assoc hc, Nat.mod_add_mod, show f + l + (c - 1) = f + (l - 1) + c by omega,
    Nat.add_mod_right]

/-- Two offsets below the capacity meet in one slot only if they are one. -/
theorem mod_inj {c f j k : Nat} (hf : f < c) (hj : j < c) (hk : k < c)
    (e : (f + j) % c = (f + k) % c) : j = k := by
  have reduce : ∀ n, n < c → (f + n) % c = if f + n < c then f + n else f + n - c := by
    intro n hn
    split
    · exact Nat.mod_eq_of_lt ‹_›
    · rw [Nat.mod_eq_sub_mod (by omega), Nat.mod_eq_of_lt (by omega)]
  rw [reduce j hj, reduce k hk] at e
  split at e <;> split at e <;> omega

end Sys2Proof.Machine
end

