-- ==== Sys2Proof/Laws/Invariant.lean ====
section
/-! SUPPORT. What keeps the invariants of `10_state.md` R35: states that agree on the registers and STORE,
and each of the shared operations that move the queue registers. -/

namespace Sys2Proof.Machine

open Sys2Proof

theorem liveSlot_index {s : State} (hc : 0 < s.capacity.toNat) (k : Nat) :
    (toReg8 ((s.front.toNat + k) % s.capacity.toNat)).toNat = (s.front.toNat + k) % s.capacity.toNat :=
  toReg8_toNat (Nat.lt_trans (Nat.mod_lt _ hc) s.capacity.isLt)

/-- A slot `slot(0) .. slot(CAPACITY-1)` is one, also where the region wraps. -/
theorem isSlot_slot {base : Addr} {capacity i : Byte} (h : i.toNat < capacity.toNat) :
    isSlot base capacity (slot base i) = true := by
  have e : (slot base i - base).toNat = i.toNat := by
    have := i.isLt
    have := base.isLt
    simp only [slot, BitVec.toNat_sub, BitVec.toNat_ofNat]
    omega
  rw [isSlot, e]
  exact decide_eq_true h

/-- `isSlot` tests the borrowed region. -/
theorem isSlot_iff_inRegion (s : State) (a : Addr) :
    isSlot s.storeBase s.capacity a = true ↔ inRegion s a := by
  constructor
  · intro h
    have h' : (a - s.storeBase).toNat < s.capacity.toNat := of_decide_eq_true h
    have hc := s.capacity.isLt
    refine ⟨BitVec.ofNat 8 (a - s.storeBase).toNat, ?_, BitVec.eq_of_toNat_eq ?_⟩
    · rw [BitVec.toNat_ofNat, Nat.mod_eq_of_lt (by omega)]; exact h'
    · have := a.isLt
      have := s.storeBase.isLt
      rw [BitVec.toNat_sub] at h'
      simp only [slot, BitVec.toNat_ofNat, BitVec.toNat_sub]
      omega
  · rintro ⟨i, hi, rfl⟩
    exact isSlot_slot hi

/-- The invariants read only the registers, STORE and the model's records. -/
theorem Coherent.of_same {s t : State} (h : Coherent s) (hr : SameRing s t) (hv : SameReceiver s t)
    (hp : SameRecord s t) (hs : t.store = s.store) : Coherent t := by
  obtain ⟨a1, a2, a3, a4, a5, a6⟩ := hr
  obtain ⟨b1, b2, b3, b4, b5⟩ := hv
  obtain ⟨p1, p2⟩ := hp
  have hl : ∀ k, liveSlot t k = liveSlot s k := fun k => by simp only [liveSlot, a1, a3, a5]
  have hi : s.constructed = true → LivePushed t := fun hc => by
    obtain ⟨x, y, z⟩ := h.inv5 hc
    constructor <;> simpa only [hl, a2, hs, p1, p2]
  obtain ⟨c1, c2, c3, c4, c5, c6, c7, c8, c9, c10, c11, c12⟩ := h
  constructor <;> simp only [a1, a2, a3, a4, a5, a6, b1, b2, b3, b4, b5, hs, p1] at * <;> assumption

/-- The address of an element is in the borrowed region. -/
theorem Coherent.isSlot_liveSlot {s : State} (h : Coherent s) (hc : s.constructed = true) (k : Nat) :
    isSlot s.storeBase s.capacity (liveSlot s k) = true :=
  isSlot_slot (by rw [liveSlot_index (h.inv1 hc).1]; exact Nat.mod_lt _ (h.inv1 hc).1)

/-- A write by HOST keeps them: a written slot stays written, and a byte in the region ends what `kept` says. -/
theorem Coherent.hostWrite {s : State} (h : Coherent s) (a : Addr) (v : Byte) : Coherent (hostWrite a v s) :=
  ⟨h.inv1, h.inv2, h.inv3, h.inv4, fun hc =>
    ⟨fun k hk => Memory.get?_set_listed ((h.inv5 hc).written k hk) _ _, (h.inv5 hc).pushed, fun hk k hl => by
      have hc' : s.constructed = true := hc
      simp only [hostWrite_hostKept, hc', Bool.true_and, Bool.and_eq_true, Bool.not_eq_true'] at hk
      refine Eq.trans (Memory.get?_set_other (fun e => ?_) _ _) ((h.inv5 hc).kept hk.1 k hl)
      have hin := h.isSlot_liveSlot hc' k
      rw [show liveSlot s k = a from BitVec.eq_of_toNat_eq e, hk.2] at hin
      cases hin⟩,
    h.inv6, h.inv7, h.inv8, h.inv9, h.inv10, Memory.wf_set a v h.storeWf, h.pushedWf⟩

/-- An empty queue has no slot. -/
theorem LivePushed.of_empty {s : State} (h : s.length = 0#8) : LivePushed s := by
  constructor <;> simp [h]

/-- A push that writes the slot of the one new element keeps INV5. -/
theorem LivePushed.push {s t : State} (h : LivePushed s) {a : Addr} {d : Byte}
    (hs : t.store = Memory.set a.toNat d s.store) (hp : t.pushed = Memory.set a.toNat d s.pushed)
    (hk : t.hostKept = s.hostKept)
    (hl : ∀ k, k < t.length.toNat → liveSlot t k = a ∨ ∃ j, j < s.length.toNat ∧ liveSlot t k = liveSlot s j) :
    LivePushed t := by
  constructor
  · intro k hlt
    rw [hs]
    rcases hl k hlt with e | ⟨j, hj, e⟩ <;> rw [e]
    · exact ⟨d, Memory.get?_set_same _ _ _⟩
    · exact Memory.get?_set_listed (h.written j hj) _ _
  · intro k hlt
    rw [hp]
    rcases hl k hlt with e | ⟨j, hj, e⟩ <;> rw [e]
    · exact ⟨d, Memory.get?_set_same _ _ _⟩
    · exact Memory.get?_set_listed (h.pushed j hj) _ _
  · intro hkept k hlt
    rw [hk] at hkept
    rw [hs, hp, Memory.get?_set, Memory.get?_set]
    rcases hl k hlt with e | ⟨j, hj, e⟩ <;> rw [e]
    · simp
    · rw [h.kept hkept j hj]

/-- A pop, which writes nothing, keeps INV5. -/
theorem LivePushed.pop {s t : State} (h : LivePushed s) (hs : t.store = s.store) (hp : SameRecord s t)
    (hl : ∀ k, k < t.length.toNat → ∃ j, j < s.length.toNat ∧ liveSlot t k = liveSlot s j) : LivePushed t := by
  obtain ⟨p1, p2⟩ := hp
  constructor
  · intro k hlt
    obtain ⟨j, hj, e⟩ := hl k hlt
    rw [e, hs]; exact h.written j hj
  · intro k hlt
    obtain ⟨j, hj, e⟩ := hl k hlt
    rw [e, p1]; exact h.pushed j hj
  · intro hkept k hlt
    obtain ⟨j, hj, e⟩ := hl k hlt
    rw [e, hs, p1]; exact h.kept (p2 ▸ hkept) j hj

/-- The slot at `BACK` is the one behind the last element (INV4). -/
theorem Coherent.back_slot {s : State} (h : Coherent s) (hc : s.constructed = true) :
    liveSlot s s.length.toNat = slot s.storeBase s.back :=
  congrArg (slot s.storeBase) (BitVec.eq_of_toNat_eq (by rw [liveSlot_index (h.inv1 hc).1, h.inv4 hc]))

/-- The slot at `FRONT` is that of the first element. -/
theorem Coherent.front_slot {s : State} (h : Coherent s) (hc : s.constructed = true) :
    liveSlot s 0 = slot s.storeBase s.front :=
  congrArg (slot s.storeBase) (BitVec.eq_of_toNat_eq (by
    rw [liveSlot_index (h.inv1 hc).1, Nat.add_zero, Nat.mod_eq_of_lt (h.inv3 hc).1]))

/-- The retreated `BACK` is the slot of the last element. -/
theorem Coherent.last_slot {s : State} (h : Coherent s) (hc : s.constructed = true) (hl : s.length ≠ 0#8) :
    liveSlot s (s.length.toNat - 1) = slot s.storeBase (retreat s.capacity s.back) :=
  congrArg (slot s.storeBase) (BitVec.eq_of_toNat_eq (by
    rw [liveSlot_index (h.inv1 hc).1, retreat_toNat (h.inv1 hc).1, h.inv4 hc,
      retreat_back_mod (h.inv1 hc).1 (byte_pos_of_ne hl)]))

theorem Coherent.room {s : State} (h : Coherent s) (hc : s.constructed = true) (hl : s.length ≠ s.capacity) :
    s.length.toNat < s.capacity.toNat :=
  byte_lt_of_ne hl (h.inv2 hc)

theorem Coherent.placeBack {s : State} (h : Coherent s) (hc : s.constructed = true)
    (hl : s.length ≠ s.capacity) (d : Byte) : Coherent (placeBack d s) := by
  have hlt := h.room hc hl
  have hcap := (h.inv1 hc).1
  have hlen : (toReg8 (s.length.toNat + 1)).toNat = s.length.toNat + 1 := toReg8_succ hlt
  refine ⟨h.inv1, fun _ => ?_, fun _ => ⟨(h.inv3 hc).1, advance_lt hcap _⟩, fun _ => ?_,
    fun _ => (h.inv5 hc).push rfl rfl rfl fun k hk => ?_, fun hx => ?_, h.inv7, h.inv8, h.inv9, h.inv10,
    Memory.wf_set _ _ h.storeWf, Memory.wf_set _ _ h.pushedWf⟩
  · rw [placeBack_length, hlen]; exact hlt
  · rw [placeBack_back, placeBack_length, hlen, advance_toNat hcap, h.inv4 hc, Nat.mod_add_mod]; rfl
  · rw [placeBack_length, hlen] at hk
    by_cases hold : k < s.length.toNat
    · exact .inr ⟨k, hold, rfl⟩
    · obtain rfl : k = s.length.toNat := by omega
      exact .inl (h.back_slot hc)
  · rw [placeBack_constructed, hc] at hx; cases hx

/-- The elements behind a retreated `FRONT` are the old ones, one further. -/
theorem liveSlot_placeFront {s : State} (h : Coherent s) (hc : s.constructed = true) (d : Byte) (k : Nat) :
    liveSlot (placeFront d s) (k + 1) = liveSlot s k := by
  show slot s.storeBase (toReg8 (((retreat s.capacity s.front).toNat + (k + 1)) % s.capacity.toNat)) = _
  rw [retreat_toNat (h.inv1 hc).1, retreated_mod (h.inv3 hc).1]; rfl

theorem liveSlot_placeFront_zero {s : State} (h : Coherent s) (hc : s.constructed = true) (d : Byte) :
    liveSlot (placeFront d s) 0 = slot s.storeBase (retreat s.capacity s.front) := by
  show slot s.storeBase (toReg8 (((retreat s.capacity s.front).toNat + 0) % s.capacity.toNat)) = _
  rw [Nat.add_zero, Nat.mod_eq_of_lt (retreat_lt (h.inv1 hc).1 _), toReg8_of_byte]

theorem Coherent.placeFront {s : State} (h : Coherent s) (hc : s.constructed = true)
    (hl : s.length ≠ s.capacity) (d : Byte) : Coherent (placeFront d s) := by
  have hlt := h.room hc hl
  have hcap := (h.inv1 hc).1
  have hlen : (toReg8 (s.length.toNat + 1)).toNat = s.length.toNat + 1 := toReg8_succ hlt
  refine ⟨h.inv1, fun _ => ?_, fun _ => ⟨retreat_lt hcap _, (h.inv3 hc).2⟩, fun _ => ?_,
    fun _ => (h.inv5 hc).push rfl rfl rfl fun k hk => ?_, fun hx => ?_, h.inv7, h.inv8, h.inv9, h.inv10,
    Memory.wf_set _ _ h.storeWf, Memory.wf_set _ _ h.pushedWf⟩
  · rw [placeFront_length, hlen]; exact hlt
  · rw [placeFront_back, placeFront_front, placeFront_length, hlen, retreat_toNat hcap, h.inv4 hc]
    exact (retreated_mod (h.inv3 hc).1 _).symm
  · rw [placeFront_length, hlen] at hk
    cases k with
    | zero => exact .inl (liveSlot_placeFront_zero h hc d)
    | succ k => exact .inr ⟨k, by omega, liveSlot_placeFront h hc d k⟩
  · rw [placeFront_constructed, hc] at hx; cases hx

theorem Coherent.takeBack {s : State} (h : Coherent s) (hc : s.constructed = true) (hl : s.length ≠ 0#8) :
    Coherent (takeBack s).2 := by
  have hcap := (h.inv1 hc).1
  refine ⟨h.inv1, fun _ => ?_, fun _ => ⟨(h.inv3 hc).1, retreat_lt hcap _⟩, fun _ => ?_,
    fun _ => (h.inv5 hc).pop rfl ⟨rfl, rfl⟩ fun k hk => ?_, fun hx => ?_, h.inv7, h.inv8, h.inv9, h.inv10, h.storeWf,
    h.pushedWf⟩
  · rw [takeBack_length, toReg8_pred]; exact Nat.le_trans (Nat.sub_le _ _) (h.inv2 hc)
  · rw [takeBack_back, takeBack_length, toReg8_pred, retreat_toNat hcap, h.inv4 hc,
      retreat_back_mod hcap (byte_pos_of_ne hl)]; rfl
  · rw [takeBack_length, toReg8_pred] at hk
    exact ⟨k, by omega, rfl⟩
  · rw [takeBack_constructed, hc] at hx; cases hx

/-- The elements behind an advanced `FRONT` are the old ones but the first. -/
theorem liveSlot_takeFront {s : State} (h : Coherent s) (hc : s.constructed = true) (k : Nat) :
    liveSlot (takeFront s).2 k = liveSlot s (k + 1) := by
  show slot s.storeBase (toReg8 (((advance s.capacity s.front).toNat + k) % s.capacity.toNat)) = _
  rw [advance_toNat (h.inv1 hc).1, Nat.mod_add_mod, Nat.add_assoc, Nat.add_comm 1 k]; rfl

theorem Coherent.takeFront {s : State} (h : Coherent s) (hc : s.constructed = true) (hl : s.length ≠ 0#8) :
    Coherent (takeFront s).2 := by
  have hcap := (h.inv1 hc).1
  have hpos := byte_pos_of_ne hl
  refine ⟨h.inv1, fun _ => ?_, fun _ => ⟨advance_lt hcap _, (h.inv3 hc).2⟩, fun _ => ?_,
    fun _ => (h.inv5 hc).pop rfl ⟨rfl, rfl⟩ fun k hk => ?_, fun hx => ?_, h.inv7, h.inv8, h.inv9, h.inv10, h.storeWf,
    h.pushedWf⟩
  · rw [takeFront_length, toReg8_pred]; exact Nat.le_trans (Nat.sub_le _ _) (h.inv2 hc)
  · rw [takeFront_back, takeFront_front, takeFront_length, takeFront_capacity, toReg8_pred, advance_toNat hcap,
      Nat.mod_add_mod, h.inv4 hc]
    congr 1; omega
  · rw [takeFront_length, toReg8_pred] at hk
    exact ⟨k + 1, by omega, liveSlot_takeFront h hc k⟩
  · rw [takeFront_constructed, hc] at hx; cases hx

/-- A successful `CONSTRUCT`, outside a session. -/
theorem Coherent.newQueue {s : State} (h : Coherent s) (hr : s.rxState ≠ .receiving) {store : Addr}
    {capacity : Byte} (hs : store ≠ 0x0000#16) (hc : capacity ≠ 0#8) : Coherent (newQueue store capacity s) :=
  ⟨fun _ => ⟨byte_pos_of_ne hc, hs⟩, fun _ => Nat.zero_le _, fun _ => ⟨byte_pos_of_ne hc, byte_pos_of_ne hc⟩,
    fun _ => (Nat.zero_mod _).symm, fun _ => .of_empty rfl, fun hx => by simp at hx, h.inv7, h.inv8,
    fun hx => absurd hx hr, h.inv10, h.storeWf, rfl⟩

theorem diagnosticMask_ne_zero {it : SrcItem} (h : it.clean = false) : diagnosticMask it ≠ 0#4 := by
  obtain ⟨d, p, f, o⟩ := it
  revert h
  cases p <;> cases f <;> cases o <;> simp [SrcItem.clean, diagnosticMask]

theorem diagnosticMask_no_bufferFull (it : SrcItem) : (diagnosticMask it).getLsbD 3 = false := by
  obtain ⟨d, p, f, o⟩ := it
  cases p <;> cases f <;> cases o <;> simp [diagnosticMask]

/-- Fault entry with a cause of R215. -/
theorem Coherent.raiseReceiveFault {s : State} (h : Coherent s) {m : BitVec 4} (hm : m ≠ 0#4)
    (h3 : m.getLsbD 3 = true → m.extractLsb' 0 3 = 0#3) : Coherent (raiseReceiveFault m s) :=
  ⟨h.inv1, h.inv2, h.inv3, h.inv4, fun hc => ⟨(h.inv5 hc).written, (h.inv5 hc).pushed, (h.inv5 hc).kept⟩, h.inv6,
    by simp [hm], by simp, by simp, by simpa using h3, h.storeWf, h.pushedWf⟩

theorem Coherent.resetBlock {s : State} (h : Coherent s) : Coherent (resetBlock s) :=
  ⟨by simp, by simp, by simp, by simp, by simp, by simp, by simp, by simp, by simp, by simp, h.storeWf, rfl⟩

end Sys2Proof.Machine
end

