-- ==== Sys2Proof/Laws/PerInstr.lean ====
section
/-! SUPPORT. Statements about each command as a term, one lemma a constructor. -/

namespace Sys2Proof.Laws

open Sys2Proof

/-- A command's word selects the row of R100 that bears its mnemonic, and no other (R102). -/
def EncodesItsRow.Statement (i : Instr) : Prop :=
  ∀ r ∈ commandRows, r.selects (encode i) = true ↔ r.mnemonic = i.mnemonic

/-- A word selects exactly the row of one mnemonic, if it agrees with each row, above the row's free bits,
exactly when the row bears that mnemonic. -/
theorem selects_only (w : CmdWord) (name : String)
    (h : w.toNat / 2 ^ 24 = 0x10 ↔ "CONSTRUCT" = name)
    (h₂ : w.toNat / 2 ^ 8 = 0x200000 ↔ "PUSH_BACK" = name)
    (h₃ : w.toNat / 2 ^ 8 = 0x300000 ↔ "PUSH_FRONT" = name)
    (h₄ : w.toNat = 0x40000000 ↔ "POP_BACK" = name)
    (h₅ : w.toNat = 0x50000000 ↔ "POP_FRONT" = name)
    (h₆ : w.toNat = 0x60000000 ↔ "IS_FULL" = name)
    (h₇ : w.toNat = 0x70000000 ↔ "IS_EMPTY" = name)
    (h₈ : w.toNat = 0x80000000 ↔ "PEEK_FRONT" = name)
    (h₉ : w.toNat = 0x90000000 ↔ "PEEK_BACK" = name)
    (hA : w.toNat / 2 ^ 16 = 0xA000 ↔ "RX_CONFIG" = name)
    (hB : w.toNat = 0xB0000000 ↔ "RX_START" = name)
    (hC : w.toNat / 2 ^ 8 = 0xC00000 ↔ "RDREG" = name) :
    ∀ r ∈ commandRows, r.selects w = true ↔ r.mnemonic = name := by
  intro r hr
  simp only [commandRows, List.mem_cons, List.not_mem_nil, or_false] at hr
  rcases hr with rfl | rfl | rfl | rfl | rfl | rfl | rfl | rfl | rfl | rfl | rfl | rfl
  · exact (selects_iff _ 24 (by decide) (by decide) w).trans h
  · exact (selects_iff _ 8 (by decide) (by decide) w).trans h₂
  · exact (selects_iff _ 8 (by decide) (by decide) w).trans h₃
  · exact (selects_iff _ 0 (by decide) (by decide) w).trans (by simpa using h₄)
  · exact (selects_iff _ 0 (by decide) (by decide) w).trans (by simpa using h₅)
  · exact (selects_iff _ 0 (by decide) (by decide) w).trans (by simpa using h₆)
  · exact (selects_iff _ 0 (by decide) (by decide) w).trans (by simpa using h₇)
  · exact (selects_iff _ 0 (by decide) (by decide) w).trans (by simpa using h₈)
  · exact (selects_iff _ 0 (by decide) (by decide) w).trans (by simpa using h₉)
  · exact (selects_iff _ 16 (by decide) (by decide) w).trans hA
  · exact (selects_iff _ 0 (by decide) (by decide) w).trans (by simpa using hB)
  · exact (selects_iff _ 8 (by decide) (by decide) w).trans hC

theorem EncodesItsRow.construct (store : Addr) (capacity : Byte) : EncodesItsRow.Statement (.construct store capacity) := by
  have hw := toNat_cmdWord 0x1#4 store capacity
  simp at hw
  apply selects_only <;> simp [encode, Instr.mnemonic] <;> omega

theorem EncodesItsRow.pushBack (data : Byte) : EncodesItsRow.Statement (.pushBack data) := by
  have hw := toNat_cmdWord 0x2#4 0#16 data
  simp at hw
  apply selects_only <;> simp [encode, Instr.mnemonic] <;> omega

theorem EncodesItsRow.pushFront (data : Byte) : EncodesItsRow.Statement (.pushFront data) := by
  have hw := toNat_cmdWord 0x3#4 0#16 data
  simp at hw
  apply selects_only <;> simp [encode, Instr.mnemonic] <;> omega

theorem EncodesItsRow.popBack : EncodesItsRow.Statement .popBack := by
  apply selects_only <;> decide

theorem EncodesItsRow.popFront : EncodesItsRow.Statement .popFront := by
  apply selects_only <;> decide

theorem EncodesItsRow.isFull : EncodesItsRow.Statement .isFull := by
  apply selects_only <;> decide

theorem EncodesItsRow.isEmpty : EncodesItsRow.Statement .isEmpty := by
  apply selects_only <;> decide

theorem EncodesItsRow.peekFront : EncodesItsRow.Statement .peekFront := by
  apply selects_only <;> decide

theorem EncodesItsRow.peekBack : EncodesItsRow.Statement .peekBack := by
  apply selects_only <;> decide

theorem EncodesItsRow.rxConfig (threshold delimiter : Byte) : EncodesItsRow.Statement (.rxConfig threshold delimiter) := by
  have hw := toNat_cmdWord 0xA#4 (0#8 ++ threshold) delimiter
  rw [toNat_join] at hw
  simp at hw
  apply selects_only <;> simp [encode, Instr.mnemonic] <;> omega

theorem EncodesItsRow.rxStart : EncodesItsRow.Statement .rxStart := by
  apply selects_only <;> decide

theorem EncodesItsRow.rdreg (n : Byte) : EncodesItsRow.Statement (.rdreg n) := by
  have hw := toNat_cmdWord 0xC#4 0#16 n
  simp at hw
  apply selects_only <;> simp [encode, Instr.mnemonic] <;> omega

end Sys2Proof.Laws
end

