-- ==== Sys2Proof/Laws/Queue.lean ====
section
/-! SUPPORT. What each slot operation does to the queue as a list (`40_ringbuffer_ops.md` R142). -/

namespace Sys2Proof.Machine

open Sys2Proof

theorem queue_length (s : State) : (queue s).length = s.length.toNat := by simp [queue]

theorem queue_eq_nil (s : State) : queue s = [] ↔ s.length = 0#8 := by
  rw [← List.length_eq_zero_iff, queue_length, ← BitVec.toNat_inj]; rfl

/-- The queue reads only the ring registers and STORE. -/
theorem queue_of_same {s t : State} (hr : SameRing s t)
    (hb : ∀ a, Memory.read t.store a = Memory.read s.store a) : queue t = queue s := by
  obtain ⟨a1, a2, a3, a4, a5, a6⟩ := hr
  simp only [queue, liveSlot, a1, a2, a3, a5, hb]

/-- The slot of an index that is not the k-th element's is another slot. -/
theorem liveSlot_ne {s : State} {k : Nat} {i : Byte} (hc : 0 < s.capacity.toNat)
    (h : i.toNat ≠ (s.front.toNat + k) % s.capacity.toNat) : liveSlot s k ≠ slot s.storeBase i := by
  intro e
  apply h
  rw [← slot_inj e, liveSlot_index hc]

theorem queue_placeBack {s : State} (h : Coherent s) (hc : s.constructed = true)
    (hl : s.length ≠ s.capacity) (d : Byte) : queue (placeBack d s) = queue s ++ [d] := by
  have hlt := h.room hc hl
  have hlen : (placeBack d s).length.toNat = s.length.toNat + 1 := toReg8_succ hlt
  unfold queue
  rw [hlen, List.range_succ, List.map_append]
  congr 1
  · refine List.map_congr_left fun k hk => Memory.read_set_other (liveSlot_ne (h.inv1 hc).1 fun e => ?_) _ _
    rw [h.inv4 hc] at e
    exact absurd (mod_inj (h.inv3 hc).1 hlt (Nat.lt_trans (List.mem_range.1 hk) hlt) e)
      (Nat.ne_of_gt (List.mem_range.1 hk))
  · show [Memory.read (Memory.set _ _ _) (liveSlot s s.length.toNat)] = _
    rw [h.back_slot hc, Memory.read_set_same]

theorem queue_placeFront {s : State} (h : Coherent s) (hc : s.constructed = true)
    (hl : s.length ≠ s.capacity) (d : Byte) : queue (placeFront d s) = d :: queue s := by
  have hlt := h.room hc hl
  have hcap := (h.inv1 hc).1
  have hlen : (placeFront d s).length.toNat = s.length.toNat + 1 := toReg8_succ hlt
  unfold queue
  rw [hlen, List.range_succ_eq_map, List.map_cons, List.map_map]
  congr 1
  · rw [liveSlot_placeFront_zero h hc]; exact Memory.read_set_same _ _ _
  · refine List.map_congr_left fun k hk => ?_
    have hk := List.mem_range.1 hk
    show Memory.read _ (liveSlot (placeFront d s) (k + 1)) = _
    rw [liveSlot_placeFront h hc]
    refine Memory.read_set_other (liveSlot_ne hcap fun e => ?_) _ _
    rw [retreat_toNat hcap, Nat.add_sub_assoc hcap] at e
    have := mod_inj (h.inv3 hc).1 (by omega) (by omega) e
    omega

theorem queue_takeBack {s : State} (h : Coherent s) (hc : s.constructed = true) (hl : s.length ≠ 0#8) :
    queue s = queue (takeBack s).2 ++ [(takeBack s).1] := by
  have hpos := byte_pos_of_ne hl
  have hlen : (takeBack s).2.length.toNat = s.length.toNat - 1 := toReg8_pred _
  unfold queue
  rw [hlen]
  conv => lhs; rw [show s.length.toNat = s.length.toNat - 1 + 1 by omega, List.range_succ, List.map_append]
  rw [List.map_singleton, h.last_slot hc hl]
  rfl

theorem queue_takeFront {s : State} (h : Coherent s) (hc : s.constructed = true) (hl : s.length ≠ 0#8) :
    queue s = (takeFront s).1 :: queue (takeFront s).2 := by
  have hpos := byte_pos_of_ne hl
  have hlen : (takeFront s).2.length.toNat = s.length.toNat - 1 := toReg8_pred _
  unfold queue
  rw [hlen]
  conv => lhs; rw [show s.length.toNat = s.length.toNat - 1 + 1 by omega, List.range_succ_eq_map,
    List.map_cons, List.map_map]
  congr 1
  · rw [h.front_slot hc]; rfl
  · refine List.map_congr_left fun k _ => ?_
    rw [liveSlot_takeFront h hc]; rfl

end Sys2Proof.Machine
end

