-- ==== Sys2Proof/Tests/Slice0.lean ====
section
/-! SUPPORT. Tests on small states. Words, responses and registers expected are those of
`95_test_vectors.md` (the vector is named) or of the rule named; then, for each statement with premises, a
witness that meets them together (`witness_…`). -/

namespace Sys2Proof.Tests

open Sys2Proof Sys2Proof.Machine

/-! ### Helpers -/

/-- The state after an outcome. -/
def after (o : Host.Outcome State Fault Refusal) : State :=
  match o with
  | .next t => t
  | .fault _ => State.reset
  | .refused _ => State.reset

/-- A constructed ring buffer, whose bytes in STORE were all pushed. -/
def ring (base : Addr) (cap len front back : Byte) (m : Memory) : State :=
  { State.reset with
    capacity := cap, length := len, front := front, back := back, storeBase := base, constructed := true,
    store := m, pushed := m }

/-- The last response word. -/
def answer (o : Host.Outcome State Fault Refusal) : Option RspWord := (after o).responses.getLast?

/-- `CAP LEN FRONT BACK`, the columns of the vectors. -/
def columns (s : State) : List Nat := [s.capacity.toNat, s.length.toNat, s.front.toNat, s.back.toNat]

def item (b : Byte) : SrcItem := { data := b, perr := false, ferr := false, oerr := false }

/-- A session in the phase `p` over `ring`, threshold 4, delimiter 0x0A, SINK ready. -/
def inSession (p : Phase) (items : List SrcItem) (s : State) : State :=
  { s with
    threshold := 4#8, delim := 0x0A#8, rxState := .receiving, phase := p, sinkReady := true, source := items }

/-! ### Well-formed words: each check of R102, with a word it refuses (vector V-E) -/

theorem test_wf_reserved_opcode_0 : wellFormedWord 0x00000000#32 = false := by decide
theorem test_wf_reserved_opcode_D : wellFormedWord 0xD0000000#32 = false := by decide
theorem test_wf_reserved_opcode_E : wellFormedWord 0xE0000001#32 = false := by decide
theorem test_wf_reserved_opcode_F : wellFormedWord 0xFFFFFFFF#32 = false := by decide
theorem test_wf_construct_z : wellFormedWord 0x11010001#32 = false := by decide
theorem test_wf_pushBack_bit8 : wellFormedWord 0x20000100#32 = false := by decide
theorem test_wf_pushBack_bit16 : wellFormedWord 0x2001002A#32 = false := by decide
theorem test_wf_pushFront_bit23 : wellFormedWord 0x30800000#32 = false := by decide
theorem test_wf_popBack_bit0 : wellFormedWord 0x40000001#32 = false := by decide
theorem test_wf_popFront_z : wellFormedWord 0x51000000#32 = false := by decide
theorem test_wf_isFull_bit7 : wellFormedWord 0x60000080#32 = false := by decide
theorem test_wf_isEmpty_bit27 : wellFormedWord 0x78000000#32 = false := by decide
theorem test_wf_peekFront_bit0 : wellFormedWord 0x80000001#32 = false := by decide
theorem test_wf_peekBack_bit8 : wellFormedWord 0x90000100#32 = false := by decide
theorem test_wf_rxConfig_bit16 : wellFormedWord 0xA001200A#32 = false := by decide
theorem test_wf_rxStart_bit8 : wellFormedWord 0xB0000100#32 = false := by decide
theorem test_wf_rdreg_bit8 : wellFormedWord 0xC0000108#32 = false := by decide
theorem test_wf_badRegister_is_legal : wellFormedWord 0xC000000C#32 = true := by decide

/-! ### Decoding: a word for each row, from the encodings of `30_encoding.md` and the vectors -/

theorem test_decode_construct : decode 0x10FF80FF#32 = .legal (.construct 0xFF80#16 255#8) := by decide
theorem test_decode_pushBack : decode 0x200000AA#32 = .legal (.pushBack 0xAA#8) := by decide
theorem test_decode_pushFront : decode 0x300000EE#32 = .legal (.pushFront 0xEE#8) := by decide
theorem test_decode_popBack : decode 0x40000000#32 = .legal .popBack := by decide
theorem test_decode_popFront : decode 0x50000000#32 = .legal .popFront := by decide
theorem test_decode_isFull : decode 0x60000000#32 = .legal .isFull := by decide
theorem test_decode_isEmpty : decode 0x70000000#32 = .legal .isEmpty := by decide
theorem test_decode_peekFront : decode 0x80000000#32 = .legal .peekFront := by decide
theorem test_decode_peekBack : decode 0x90000000#32 = .legal .peekBack := by decide
theorem test_decode_rxConfig : decode 0xA000040A#32 = .legal (.rxConfig 4#8 0x0A#8) := by decide
theorem test_decode_rxStart : decode 0xB0000000#32 = .legal .rxStart := by decide
theorem test_decode_rdreg : decode 0xC00000FF#32 = .legal (.rdreg 0xFF#8) := by decide
theorem test_encode_construct : encode (.construct 0x1234#16 64#8) = 0x10123440#32 := by decide
theorem test_encode_rxConfig : encode (.rxConfig 32#8 0x0A#8) = 0xA000200A#32 := by decide
theorem test_decodeTableWord : decodeTableWord 32 0xC0000008 = some (.rdreg 0x08#8) := by decide
theorem test_assemble_construct : assemble "CONSTRUCT 0xFF80, 255".toList = some 0x10FF80FF#32 := by decide
theorem test_assemble_junk : assemble "POP_BACK 1".toList = none := by decide

/-! ### One step of each command -/

/-- V-C6. -/
theorem test_construct :
    columns (after (exec (.construct 0xFF80#16 255#8) State.reset)) = [255, 0, 0, 0] := by decide
/-- V-C4: capacity is tested first. -/
theorem test_construct_zero : answer (exec (.construct 0x0000#16 0#8) State.reset) = some 0x2000#16 := by decide
/-- V-P1 step 8: the slot is the old `BACK`. -/
theorem test_pushBack :
    let t := after (exec (.pushBack 4#8) (ring 0x0400#16 3#8 2#8 1#8 0#8 []))
    columns t = [3, 3, 1, 1] ∧ Memory.read t.store 0x0400#16 = 4#8 := by decide
/-- V-P2 step 3. -/
theorem test_pushBack_full :
    answer (exec (.pushBack 8#8) (ring 0x0001#16 1#8 1#8 0#8 0#8 [(1, 7#8)])) = some 0x3000#16 := by decide
/-- V-P3 (b): the 9-bit intermediate of the retreat. -/
theorem test_pushFront :
    let t := after (exec (.pushFront 0xEE#8) (ring 0xFF80#16 255#8 1#8 10#8 11#8 []))
    columns t = [255, 2, 9, 11] ∧ Memory.read t.store 0xFF89#16 = 0xEE#8 := by decide
/-- V-P3 (a): the region wraps past 0xFFFF. -/
theorem test_pushFront_wraps :
    let t := after (exec (.pushFront 0x77#8) (ring 0xFF80#16 255#8 0#8 0#8 0#8 []))
    columns t = [255, 1, 254, 0] ∧ Memory.read t.store 0x007E#16 = 0x77#8 := by decide
/-- V-P1 step 16: `BACK` retreats 1 -> 0, then the read. -/
theorem test_popBack :
    let o := exec .popBack (ring 0x0400#16 3#8 2#8 2#8 1#8 [(0x0400, 4#8), (0x0401, 5#8), (0x0402, 0#8)])
    columns (after o) = [3, 1, 2, 0] ∧ answer o = some 0x0004#16 := by decide
/-- V-P1 step 17: `BACK` retreats 0 -> 2. -/
theorem test_popBack_wraps :
    let o := exec .popBack (ring 0x0400#16 3#8 1#8 2#8 0#8 [(0x0400, 4#8), (0x0401, 5#8), (0x0402, 0#8)])
    columns (after o) = [3, 0, 2, 2] ∧ answer o = some 0x0000#16 := by decide
/-- V-P1 step 10: `FRONT` advances 2 -> 0. -/
theorem test_popFront :
    let o := exec .popFront (ring 0x0400#16 3#8 2#8 2#8 1#8 [(0x0400, 4#8), (0x0401, 2#8), (0x0402, 3#8)])
    columns (after o) = [3, 1, 0, 1] ∧ answer o = some 0x0003#16 := by decide
/-- V-P1 step 19: an empty buffer, nothing moves and no STORE access. -/
theorem test_popBack_empty :
    let t := after (exec .popBack (ring 0x0400#16 3#8 0#8 2#8 2#8 []))
    columns t = [3, 0, 2, 2] ∧ t.accesses = [] ∧ t.responses.length = 1 := by decide
/-- V-P1 step 5. -/
theorem test_isFull : answer (exec .isFull (ring 0x0400#16 3#8 3#8 0#8 0#8 [])) = some 0x0001#16 := by decide
/-- Property 1, c = 0. -/
theorem test_isEmpty_not_constructed : answer (exec .isEmpty State.reset) = some 0x5000#16 := by decide
/-- V-P1 step 18: equal indices, empty. -/
theorem test_isEmpty : answer (exec .isEmpty (ring 0x0400#16 3#8 0#8 2#8 2#8 [])) = some 0x0001#16 := by decide
/-- S4 step 4. -/
theorem test_peekFront :
    answer (exec .peekFront (ring 0x0200#16 2#8 2#8 1#8 1#8 [(0x0200, 20#8), (0x0201, 10#8)]))
      = some 0x000A#16 := by decide
/-- S4 step 5: the retreated index, not `BACK`. -/
theorem test_peekBack :
    answer (exec .peekBack (ring 0x0200#16 2#8 2#8 1#8 1#8 [(0x0200, 20#8), (0x0201, 10#8)]))
      = some 0x0014#16 := by decide
/-- V-N: before construction. -/
theorem test_rxConfig :
    let t := after (exec (.rxConfig 1#8 2#8) State.reset)
    t.threshold = 1#8 ∧ t.delim = 2#8 ∧ t.responses = [0x0000#16] := by decide
/-- V-R9 step 3: `Halted` before `BadThreshold`. -/
theorem test_rxStart_halted :
    answer (exec .rxStart { ring 0x0300#16 8#8 0#8 0#8 0#8 [] with rxState := .faulted, fault := 0b0010#4 })
      = some 0x7000#16 := by decide
/-- The example of R172. -/
theorem test_rxStart :
    let t := after (exec .rxStart { ring 0x0300#16 64#8 0#8 0#8 0#8 [] with threshold := 32#8, delim := 0x0A#8 })
    t.rxState = .receiving ∧ t.phase = .resume ∧ t.responses = [] := by decide
/-- V-C2: `CONSTRUCTED` and `EMPTY`. -/
theorem test_rdreg_status :
    answer (exec (.rdreg 0x08#8) (ring 0x1234#16 64#8 0#8 0#8 0#8 [])) = some 0x0005#16 := by decide
/-- V-C2: the high byte of `STORE_BASE`. -/
theorem test_rdreg_base :
    answer (exec (.rdreg 0x05#8) (ring 0x1234#16 64#8 0#8 0#8 0#8 [])) = some 0x0012#16 := by decide
/-- V-N. -/
theorem test_rdreg_reserved : answer (exec (.rdreg 0x0C#8) State.reset) = some 0x8000#16 := by decide

/-! ### The sequencer, the ports, reset and the schedule -/

/-- V-R5: all three diagnostics at once; the byte equals `DELIM`, but is dropped. -/
theorem test_seqByte_diagnostics :
    let s := inSession .byte [{ data := 0x0A#8, perr := true, ferr := true, oerr := true }, item 2#8]
      (ring 0x0300#16 8#8 1#8 0#8 1#8 [(0x0300, 1#8)])
    let t := after (step s)
    t.responses = [0x9007#16] ∧ columns t = [8, 1, 0, 1] ∧ t.rxState = .faulted ∧ t.source = [item 2#8] := by
  decide
/-- V-R7: a session on a full buffer. -/
theorem test_seqByte_bufferFull :
    let t := after (step (inSession .byte [item 3#8, item 4#8]
      { ring 0x0300#16 2#8 2#8 0#8 0#8 [(0x0300, 1#8), (0x0301, 2#8)] with threshold := 2#8 }))
    t.responses = [0x9008#16] ∧ t.taken = 1 ∧ t.phase = .none := by decide
/-- V-R1: the delimiter is pushed, then the session ends. -/
theorem test_seqByte_delimiter :
    let t := after (step (inSession .byte [item 0x0A#8] (ring 0x0300#16 8#8 0#8 0#8 0#8 [])))
    t.phase = .pause ∧ columns t = [8, 1, 0, 1] ∧ Memory.read t.store 0x0300#16 = 0x0A#8 := by decide
/-- S5, step 3a. -/
theorem test_seqResume :
    let t := after (step (inSession .resume [] (ring 0x0300#16 8#8 0#8 0#8 0#8 [])))
    t.sink = [0x11#8] ∧ t.phase = .byte := by decide
/-- S5, step 3d. -/
theorem test_seqPause :
    let t := after (step (inSession .pause [] (ring 0x0300#16 8#8 0#8 0#8 0#8 [])))
    t.sink = [0x13#8] ∧ t.rxState = .completed ∧ t.responses = [0x0000#16] := by decide
/-- V-E. -/
theorem test_illegal_word :
    let t := after (step (State.withFetchWord (ring 0x0100#16 4#8 0#8 0#8 0#8 []) 32 0x51000000))
    t.responses = [0xF000#16] ∧ columns t = [4, 0, 0, 0] := by decide
/-- R240: reset in the middle of a session; STORE and the sink trace stay (R241). -/
theorem test_reset_in_session :
    let t := after (step { inSession .byte [item 1#8] (ring 0x0300#16 8#8 1#8 0#8 1#8 [(0x0300, 1#8)]) with
      rst := true, sink := [0x11#8] })
    t.phase = .none ∧ t.rxState = .idle ∧ t.constructed = false ∧ t.store = [(0x0300, 1#8)] ∧ t.sink = [0x11#8]
      ∧ t.responses = [] ∧ t.source = [item 1#8] := by decide
/-- R92, R96: `cmd_ready` and `src_ready` in `PH_BYTE`. -/
theorem test_ports_in_session :
    let s := inSession .byte [] (ring 0x0300#16 8#8 0#8 0#8 0#8 [])
    cmdReady s = false ∧ srcReady s = true ∧ snkValid s = false ∧ rxStateWire s = 1#2 := by decide
/-- R62: the latest write wins, and the list stays sorted with one entry an address. -/
theorem test_memory_set :
    Memory.set 5 1#8 (Memory.set 9 2#8 (Memory.set 5 3#8 [])) = [(5, 1#8), (9, 2#8)] := by decide
/-- The host's own write, between two steps of the block. -/
theorem test_hostWrite :
    let t := after (step { State.reset with moves := [.hostWrite 0x0100#16 7#8, .clock] })
    Memory.read t.store 0x0100#16 = 7#8 ∧ t.moves = [.clock] ∧ t.accesses = [] := by decide

/-! ### The states of the witnesses, all coherent -/

/-- Constructed, empty, capacity 3, ready to start a session of threshold 2. -/
def ready : State := { ring 0x0100#16 3#8 0#8 0#8 0#8 [] with threshold := 2#8, delim := 0x0A#8 }

/-- Two elements, 0x43 then 0x41, the queue wrapped past slot 0. -/
def two : State := { ring 0x0100#16 3#8 2#8 2#8 1#8 [(0x0100, 0x41#8), (0x0102, 0x43#8)] with threshold := 2#8 }

/-- Capacity 1 and full. -/
def full : State := { ring 0x0100#16 1#8 1#8 0#8 0#8 [(0x0100, 7#8)] with threshold := 1#8 }

/-- `ready` in a session, with one item 0x41 offered and SINK ready. -/
def session (p : Phase) : State :=
  { ready with rxState := .receiving, phase := p, sinkReady := true, source := [item 0x41#8] }

/-- `full` in a session. -/
def fullSession : State :=
  { full with rxState := .receiving, phase := .byte, sinkReady := true, source := [item 0x41#8] }

/-- Faulted by a parity error, with the default policy. -/
def halted : State := { ready with rxState := .faulted, fault := 0b0001#4 }

/-- `s` with one command offered. -/
def offering (w : CmdWord) (s : State) : State := { s with commands := [w] }

/-- INV5 where STORE holds nothing but what was pushed. -/
theorem livePushed_of_written {s : State} (e : s.pushed = s.store)
    (h : ∀ k, k < s.length.toNat → ∃ v, Memory.get? (liveSlot s k).toNat s.store = some v) : LivePushed s :=
  ⟨h, e ▸ h, fun _ _ _ => by rw [e]⟩

theorem livePushed_two : LivePushed two :=
  livePushed_of_written rfl fun k hk => match k, hk with
    | 0, _ => ⟨0x43#8, by decide⟩
    | 1, _ => ⟨0x41#8, by decide⟩
    | n + 2, h => absurd (show n + 2 < 2 from h) (by omega)

theorem livePushed_full : LivePushed full :=
  livePushed_of_written rfl fun k hk => match k, hk with
    | 0, _ => ⟨7#8, by decide⟩
    | n + 1, h => absurd (show n + 1 < 1 from h) (by omega)

theorem coherent_reset : Coherent State.reset :=
  ⟨by decide, by decide, by decide, by decide, fun h => absurd h (by decide), by decide, by decide, by decide,
    by decide, by decide, by decide, by decide⟩

theorem coherent_ready : Coherent ready :=
  ⟨by decide, by decide, by decide, by decide, fun _ => .of_empty rfl, by decide, by decide,
    by decide, by decide, by decide, by decide, by decide⟩

theorem coherent_two : Coherent two :=
  ⟨by decide, by decide, by decide, by decide, fun _ => livePushed_two, by decide, by decide, by decide, by decide,
    by decide, by decide, by decide⟩

theorem coherent_full : Coherent full :=
  ⟨by decide, by decide, by decide, by decide, fun _ => livePushed_full, by decide, by decide, by decide, by decide,
    by decide, by decide, by decide⟩

theorem coherent_fullSession : Coherent fullSession :=
  ⟨by decide, by decide, by decide, by decide,
    fun _ => ⟨livePushed_full.written, livePushed_full.pushed, livePushed_full.kept⟩, by decide, by decide,
    by decide, by decide, by decide, by decide, by decide⟩

theorem coherent_session : ∀ p : Phase, p ≠ .none → Coherent (session p)
  | .resume, _ | .byte, _ | .pause, _ =>
    ⟨by decide, by decide, by decide, by decide, fun _ => .of_empty rfl, by decide, by decide,
      by decide, by decide, by decide, by decide, by decide⟩
  | .none, h => absurd rfl h

theorem coherent_halted : Coherent halted :=
  ⟨by decide, by decide, by decide, by decide, fun _ => .of_empty rfl, by decide, by decide,
    by decide, by decide, by decide, by decide, by decide⟩

theorem coherent_offering {s : State} (h : Coherent s) (w : CmdWord) : Coherent (offering w s) :=
  h.of_same ⟨rfl, rfl, rfl, rfl, rfl, rfl⟩ ⟨rfl, rfl, rfl, rfl, rfl⟩ ⟨rfl, rfl⟩ rfl

theorem coherent_rst {s : State} (h : Coherent s) (b : Bool) : Coherent { s with rst := b } :=
  h.of_same ⟨rfl, rfl, rfl, rfl, rfl, rfl⟩ ⟨rfl, rfl, rfl, rfl, rfl⟩ ⟨rfl, rfl⟩ rfl

theorem coherent_moves {s : State} (h : Coherent s) (m : List EnvMove) : Coherent { s with moves := m } :=
  h.of_same ⟨rfl, rfl, rfl, rfl, rfl, rfl⟩ ⟨rfl, rfl, rfl, rfl, rfl⟩ ⟨rfl, rfl⟩ rfl

theorem inPhase_session (p : Phase) : InPhase (session p) p := ⟨rfl, rfl, rfl⟩

theorem issues_offering {w : CmdWord} {i : Instr} {s : State} (he : clockEdge s = true) (hr : s.rst = false)
    (hp : s.phase = .none) (hd : decode w = .legal i) : Issues (offering w s) i :=
  ⟨he, hr, hp, w, [], rfl, hd⟩

/-! ### Witnesses: encoding -/

theorem witness_DecodeAndEncodeAgree :
    decode 0xC00000FF#32 = .legal (.rdreg 0xFF#8) ∧ decode 0x10000101#32 = .legal (.construct 0x0001#16 1#8) := by
  decide

/-- One word for each must-be-zero part, the first and the last defined opcode among them. -/
theorem witness_WordSelectsARowExactlyWhenItDecodesToIt :
    ((opField 0x11010001#32).toNat = 1 ∧ zField 0x11010001#32 ≠ 0#4) ∧
    ((opField 0xC0000108#32).toNat = 0xC ∧ opField 0xC0000108#32 ∉ [0x1#4, 0xA#4] ∧
      aField 0xC0000108#32 ≠ 0#16) ∧
    (opField 0xA001200A#32 = 0xA#4 ∧ aHigh 0xA001200A#32 ≠ 0#8) ∧
    (opField 0x40000001#32 ∈ [0x4#4, 0x5#4, 0x6#4, 0x7#4, 0x8#4, 0x9#4, 0xB#4] ∧ bField 0x40000001#32 ≠ 0#8) ∧
    ∃ r ∈ commandRows, r.selects 0x2000002A#32 = true := by decide

theorem witness_IllegalWordIsAnsweredAndChangesNothing :
    InPhase (offering 0x51000000#32 two) .none ∧ (offering 0x51000000#32 two).commands = [0x51000000#32] ∧
      decode 0x51000000#32 = .illegal .mustBeZero ∧ opField 0xD0000000#32 = 0xD#4 :=
  ⟨⟨rfl, rfl, rfl⟩, rfl, by decide, by decide⟩

/-! ### Witnesses: the step -/

theorem witness_StepRunsTheDecodedCommand :
    Issues (offering 0x2000002A#32 ready) (.pushBack 42#8) ∧
      decodeTableWord 32 0x2000002A = some (.pushBack 42#8) :=
  ⟨issues_offering rfl rfl rfl (by decide), by decide⟩

theorem witness_EnvironmentMoveChangesOnlyItsOwnSide :
    ∀ m ∈ [EnvMove.setRst true, .setSinkReady true, .offerCommand 0#32, .offerItem (item 0#8),
      .hostWrite 0xFFFF#16 255#8], { ready with moves := [m] }.moves = m :: [] ∧ m ≠ .clock := by decide

theorem witness_WaitingChangesNothing :
    (InPhase ready .none ∧ ready.commands = []) ∧
    (InPhase { session .resume with sinkReady := false } .resume ∧
      { session .resume with sinkReady := false }.sinkReady = false) ∧
    (InPhase { session .byte with source := [] } .byte ∧ { session .byte with source := [] }.source = []) ∧
    (InPhase { session .pause with sinkReady := false } .pause ∧
      { session .pause with sinkReady := false }.sinkReady = false) :=
  ⟨⟨⟨rfl, rfl, rfl⟩, rfl⟩, ⟨⟨rfl, rfl, rfl⟩, rfl⟩, ⟨⟨rfl, rfl, rfl⟩, rfl⟩, ⟨rfl, rfl, rfl⟩, rfl⟩

/-- A step that presents a response, makes an access and takes an item, and one that hands a byte over. -/
theorem witness_AStepDoesAtMostOneOfEach :
    (∃ t, step (offering 0x50000000#32 two) = .next t ∧ t.responses.length = 1 ∧ t.accesses.length = 1) ∧
    (∃ t, step (session .byte) = .next t ∧ t.taken = 1) ∧
    (∃ t, step (session .pause) = .next t ∧ t.sink.length = 1) :=
  ⟨⟨_, rfl, by decide⟩, ⟨_, rfl, by decide⟩, ⟨_, rfl, by decide⟩⟩

/-! ### Witnesses: reset -/

theorem witness_ResetLoadsEveryResetValue :
    clockEdge { session .byte with rst := true } = true ∧ { session .byte with rst := true }.rst = true := by decide

theorem witness_ResetLeavesWhatIsOutsideTheBlock :
    clockEdge { two with rst := true } = true ∧ { two with rst := true }.rst = true := by decide

theorem witness_OutputsAreQuietWhileInReset :
    { session .pause with rst := true }.rst = true ∧ clockEdge { session .pause with rst := true } = true := by
  decide

/-! ### Witnesses: invariants and whole-machine rules -/

theorem witness_EveryStepKeepsTheInvariant :
    Coherent (session .byte) ∧ ∃ t, step (session .byte) = .next t ∧ t.length = 1#8 :=
  ⟨coherent_session _ (by decide), _, rfl, by decide⟩

/-- A witness for each row: reset, an accepted `RX_START`, a full buffer, `SEQ_PAUSE`. -/
theorem witness_ReceiverStateMovesOnlyAsTheTableSays :
    (Coherent { session .byte with rst := true } ∧
      ∃ t, step { session .byte with rst := true } = .next t ∧ t.rxState ≠ .receiving) ∧
    (Coherent (offering 0xB0000000#32 ready) ∧
      ∃ t, step (offering 0xB0000000#32 ready) = .next t ∧ t.rxState ≠ .idle) ∧
    (Coherent fullSession ∧ ∃ t, step fullSession = .next t ∧ t.rxState ≠ .receiving) ∧
    (Coherent (session .pause) ∧ ∃ t, step (session .pause) = .next t ∧ t.rxState ≠ .receiving) :=
  ⟨⟨coherent_rst (coherent_session _ (by decide)) _, _, rfl, by decide⟩,
    ⟨coherent_offering coherent_ready _, _, rfl, by decide⟩, ⟨coherent_fullSession, _, rfl, by decide⟩, ⟨coherent_session _ (by decide), _, rfl, by decide⟩⟩

theorem witness_FaultedUnderHaltIsLeftOnlyByReset :
    (Coherent (offering 0xB0000000#32 halted) ∧ (offering 0xB0000000#32 halted).rxState = .faulted ∧
      (offering 0xB0000000#32 halted).cfg.faultPolicy = .halt ∧
      ∃ t, step (offering 0xB0000000#32 halted) = .next t ∧ t.rxState = .faulted) ∧
    (Coherent { halted with rst := true } ∧ { halted with rst := true }.rxState = .faulted ∧
      ∃ t, step { halted with rst := true } = .next t ∧ t.rxState = .idle) :=
  ⟨⟨coherent_offering coherent_halted _, by decide, by decide, _, rfl, by decide⟩,
    coherent_rst coherent_halted _, by decide, _, rfl, by decide⟩

theorem witness_ConstructedChangesOnlyByConstructAndReset :
    (∃ t, step (offering 0x10000101#32 State.reset) = .next t ∧ t.constructed ≠ State.reset.constructed) ∧
    ∃ t, step { ready with rst := true } = .next t ∧ t.constructed ≠ ready.constructed :=
  ⟨⟨_, rfl, by decide⟩, ⟨_, rfl, by decide⟩⟩

/-- `PUSH_FRONT` moves `LENGTH` and `FRONT`; a received byte moves `LENGTH` and `BACK`; a pop moves both. -/
theorem witness_QueueRegistersMoveOnlyAsTheirRulesSay :
    (Coherent (offering 0x30000001#32 two) ∧
      ∃ t, step (offering 0x30000001#32 two) = .next t ∧ t.length ≠ two.length ∧ t.front ≠ two.front) ∧
    (Coherent (session .byte) ∧
      ∃ t, step (session .byte) = .next t ∧ t.length ≠ ready.length ∧ t.back ≠ ready.back) ∧
    (Coherent (offering 0x40000000#32 two) ∧
      ∃ t, step (offering 0x40000000#32 two) = .next t ∧ t.length ≠ two.length ∧ t.back ≠ two.back) :=
  ⟨⟨coherent_offering coherent_two _, _, rfl, by decide⟩, ⟨coherent_session _ (by decide), _, rfl, by decide⟩,
    ⟨coherent_offering coherent_two _, _, rfl, by decide⟩⟩

/-- A register the row marks not at all, one it marks `w` only, and both for a sequencer step. -/
theorem witness_RegistersAreAccessedOnlyAsTheTableSays :
    (∃ t, exec (.pushBack 1#8) ready = .next t) ∧ RegName.front ∉ mayWrite (.pushBack 1#8) ∧
      RegName.front ∉ mayRead (.pushBack 1#8) ∧ RegName.fault ∉ seqMayWrite .pause ∧
      (∃ t, exec .rxStart ready = .next t) ∧ RegName.fault ∉ mayRead .rxStart ∧ RegName.fault ∈ mayWrite .rxStart ∧
      RegName.front ∉ seqMayRead .byte ∧ RegName.fault ∉ seqMayRead .byte ∧ RegName.fault ∈ seqMayWrite .byte ∧
      clockEdge { ready with rst := true } = true :=
  ⟨⟨_, rfl⟩, by decide, by decide, by decide, ⟨_, rfl⟩, by decide⟩

/-- A failing command, and a session that faults. -/
theorem witness_FailureHasNoSideEffects :
    (∃ t, step (offering 0x20000001#32 State.reset) = .next t ∧ t.responses = [] ++ [0x5000#16] ∧
      statusOf 0x5000#16 ≠ 0x0#4) ∧
    ∃ t, step fullSession = .next t ∧ t.responses = [] ++ [0x9008#16] ∧ statusOf 0x9008#16 ≠ 0x0#4 :=
  ⟨⟨_, rfl, by decide⟩, ⟨_, rfl, by decide⟩⟩

theorem witness_EveryResponseHasTheOneFormat :
    ∃ t, step (offering 0xFFFFFFFF#32 ready) = .next t ∧ t.responses = ready.responses ++ [0xF000#16] :=
  ⟨_, rfl, by decide⟩

/-! ### Witnesses: the ports -/

theorem witness_CommandsAreTakenOneAtATime :
    (cmdTransfer (offering 0x60000000#32 ready) = true ∧ ∃ t, step (offering 0x60000000#32 ready) = .next t) ∧
    (cmdTransfer (offering 0x60000000#32 (session .byte)) = false ∧ (session .byte).phase ≠ .none ∧
      ∃ t, step (offering 0x60000000#32 (session .byte)) = .next t ∧ t.phase ≠ .none) :=
  ⟨⟨by decide, _, rfl⟩, by decide, by decide, _, rfl, by decide⟩

theorem witness_ItemsAreTakenExactlyAtASourceTransfer :
    (srcTransfer (session .byte) = true ∧ ∃ t, step (session .byte) = .next t) ∧
    (srcTransfer (session .resume) = false ∧ (session .resume).phase ≠ .byte ∧
      ∃ t, step (session .resume) = .next t) :=
  ⟨⟨by decide, _, rfl⟩, by decide, by decide, _, rfl⟩

theorem witness_OnlyControlBytesReachTheSink :
    (snkTransfer (session .resume) = true ∧ snkValid (session .resume) = true ∧
      ∃ t, step (session .resume) = .next t) ∧
    (snkTransfer (session .pause) = true ∧ snkValid (session .pause) = true) ∧
    (snkTransfer (session .byte) = false ∧ ∃ t, step (session .byte) = .next t) :=
  ⟨⟨by decide, by decide, _, rfl⟩, ⟨by decide, by decide⟩, by decide, _, rfl⟩

theorem witness_InputsAreLookedAtOnlyInTheirPhases :
    (clockEdge (session .pause) = true ∧ srcReady (session .pause) = false ∧
      ∃ t, step (session .pause) = .next t) ∧
    (clockEdge (session .byte) = true ∧ snkValid (session .byte) = false ∧
      ∃ t, step (session .byte) = .next t) :=
  ⟨⟨by decide, by decide, _, rfl⟩, by decide, by decide, _, rfl⟩

/-! ### Witnesses: STORE -/

/-- Each clause: HOST's write, the block's write, an address neither writes, the block's read. -/
theorem witness_StoreReadsTheLatestWrite :
    (∃ t, step { ready with moves := [.hostWrite 0xFFFF#16 1#8] } = .next t) ∧
    (∃ t, step (offering 0x20000041#32 ready) = .next t ∧
      t.accesses = ready.accesses ++ [.write 0x0100#16 0x41#8] ∧
      ∀ v, t.accesses ≠ ready.accesses ++ [.write 0x0101#16 v]) ∧
    (Coherent (offering 0x50000000#32 two) ∧ ∃ t, step (offering 0x50000000#32 two) = .next t ∧
      t.accesses = two.accesses ++ [.read 0x0102#16 0x43#8]) :=
  ⟨⟨_, rfl⟩, ⟨_, rfl, by decide, by decide⟩, coherent_offering coherent_two _, _, rfl, by decide⟩

theorem witness_StoreIsTouchedOnlyInTheBorrowedRegion :
    (Coherent (offering 0x20000041#32 two) ∧ ∃ t, step (offering 0x20000041#32 two) = .next t ∧
      t.accesses = two.accesses ++ [.write 0x0101#16 0x41#8]) ∧
    (Coherent (offering 0x40000000#32 two) ∧ ∃ t, step (offering 0x40000000#32 two) = .next t ∧
      t.accesses = two.accesses ++ [.read 0x0100#16 0x41#8]) ∧
    (Coherent { two with moves := [.hostWrite 0x0100#16 1#8] } ∧
      ∃ t, step { two with moves := [.hostWrite 0x0100#16 1#8] } = .next t ∧
        Memory.read t.store 0x0100#16 ≠ Memory.read two.store 0x0100#16) :=
  ⟨⟨coherent_offering coherent_two _, _, rfl, by decide⟩, ⟨coherent_offering coherent_two _, _, rfl, by decide⟩,
    coherent_moves coherent_two _, _, rfl, by decide⟩

/-- A write, a read, a failure without access, and both cases of `SEQ_BYTE`. -/
theorem witness_StoreAccessesAreCounted :
    (∃ t, exec (.pushBack 5#8) two = .next t ∧ t.responses = two.responses ++ [okWord 0#8] ∧
      slotWritten (.pushBack 5#8) two = some (0x0101#16, 5#8)) ∧
    (∃ t, exec .popFront two = .next t ∧ t.responses = two.responses ++ [okWord 0x43#8] ∧
      slotRead .popFront two = some 0x0102#16) ∧
    (∃ t, exec (.pushBack 5#8) full = .next t ∧ ¬ ∃ d, t.responses = full.responses ++ [okWord d]) ∧
    ((session .byte).source = [item 0x41#8] ∧ (item 0x41#8).clean = true ∧
      (session .byte).length ≠ (session .byte).capacity) ∧
    (fullSession.source = [item 0x41#8] ∧ fullSession.length = fullSession.capacity) := by
  refine ⟨⟨_, rfl, by decide, by decide⟩, ⟨_, rfl, by decide, by decide⟩, ⟨_, rfl, ?_⟩, by decide, by decide⟩
  rintro ⟨d, hd⟩
  exact absurd (congrArg statusOf (List.append_cancel_left hd |> List.head_eq_of_cons_eq)) (by
    revert d; decide)

/-- An address just behind the region, and one in it. -/
theorem witness_HostWriteNeverReachesTheRegisters :
    { two with moves := [.hostWrite 0x0103#16 9#8] }.moves = [.hostWrite 0x0103#16 9#8] ∧
      Coherent { two with moves := [.hostWrite 0x0103#16 9#8] } ∧
      ¬ inRegion { two with moves := [.hostWrite 0x0103#16 9#8] } 0x0103#16 ∧ inRegion two 0x0102#16 := by
  refine ⟨rfl, coherent_moves coherent_two _, ?_, 2#8, by decide⟩
  rintro ⟨i, hi, ha⟩
  have hi' : i.toNat < 3 := hi
  have h := congrArg BitVec.toNat ha
  rw [show two.storeBase = 0x0100#16 from rfl] at h
  simp [slot] at h
  omega

/-! ### Witnesses: ring buffer commands -/

theorem witness_ConstructMakesAnEmptyQueue : 255#8 ≠ 0#8 ∧ 1#8 ≠ 0#8 ∧ 0x0001#16 ≠ 0x0000#16 := by decide
theorem witness_ConstructErrorsAreReportedInOrder : 1#8 ≠ 0#8 := by decide
theorem witness_NotConstructedIsTestedFirst : State.reset.constructed = false := by decide

theorem witness_FullAndEmptyChangeNothing :
    (full.constructed = true ∧ full.length = full.capacity) ∧ (ready.constructed = true ∧ ready.length = 0#8) := by
  decide

/-- An empty buffer, and the last free slot. -/
theorem witness_PushBackWritesThenAdvances :
    (ready.constructed = true ∧ ready.length.toNat < ready.capacity.toNat) ∧
    (two.constructed = true ∧ two.length.toNat + 1 = two.capacity.toNat) := by decide

theorem witness_PushFrontRetreatsThenWrites :
    (ready.constructed = true ∧ ready.length.toNat < ready.capacity.toNat) ∧
    (two.constructed = true ∧ two.length.toNat + 1 = two.capacity.toNat) := by decide

/-- A full buffer with one element, and one with two. -/
theorem witness_PopBackRetreatsThenReads :
    (full.constructed = true ∧ full.length ≠ 0#8 ∧ full.length.toNat ≤ full.capacity.toNat) ∧
    (two.constructed = true ∧ two.length ≠ 0#8 ∧ two.length.toNat ≤ two.capacity.toNat) := by decide

theorem witness_PopFrontReadsThenAdvances :
    (full.constructed = true ∧ full.length ≠ 0#8 ∧ full.length.toNat ≤ full.capacity.toNat) ∧
    (two.constructed = true ∧ two.length ≠ 0#8 ∧ two.length.toNat ≤ two.capacity.toNat) := by decide

theorem witness_PredicatesAnswerByLengthAlone :
    ready.constructed = true ∧ full.constructed = true ∧ ready.length = 0#8 ∧ full.length = full.capacity := by
  decide

theorem witness_PeeksAnswerWhatThePopWould :
    two.constructed = true ∧ two.length ≠ 0#8 ∧ two.length.toNat ≤ two.capacity.toNat := by decide

/-- Capacities 1 and 255, the first and the last index. -/
theorem witness_IndexStepsWrapAndInvert :
    (1 ≤ (1#8).toNat ∧ (0#8).toNat < (1#8).toNat ∧ (0#8).toNat + 1 = (1#8).toNat) ∧
    (1 ≤ (255#8).toNat ∧ (254#8).toNat < (255#8).toNat ∧ 0 < (254#8).toNat) ∧
    (0#8).toNat + 1 < (255#8).toNat := by decide

/-- Room (`two`), full (`full`), a last and a first element, and the empty queue (`ready`). -/
theorem witness_CommandsActOnTheQueueAsAList :
    (Coherent two ∧ two.constructed = true ∧ (queue two).length < two.capacity.toNat ∧
      queue two = [0x43#8] ++ [0x41#8] ∧ queue two = 0x43#8 :: [0x41#8]) ∧
    (Coherent full ∧ full.constructed = true ∧ (queue full).length = full.capacity.toNat) ∧
    (Coherent ready ∧ ready.constructed = true ∧ queue ready = []) :=
  ⟨⟨coherent_two, by decide⟩, ⟨coherent_full, by decide⟩, ⟨coherent_ready, by decide⟩⟩

theorem witness_PushThenPopAtOneEndRoundTrips :
    Coherent two ∧ two.constructed = true ∧ two.length.toNat < two.capacity.toNat := ⟨coherent_two, by decide⟩

/-- As many bytes as the capacity. -/
theorem witness_QueueIsFifoAcrossAndLifoAtOneEnd :
    Coherent ready ∧ ready.constructed = true ∧ ready.length = 0#8 ∧
      [1#8, 2#8, 3#8].length ≤ ready.capacity.toNat := ⟨coherent_ready, by decide⟩

/-! ### Witnesses: receiver commands -/

/-- Threshold below the capacity, threshold equal to it, and Faulted under Restartable. -/
theorem witness_RxStartBeginsASession :
    (ready.constructed = true ∧ (ready.rxState = .faulted → ready.cfg.faultPolicy = .restartable) ∧
      0 < ready.threshold.toNat ∧ ready.threshold.toNat ≤ ready.capacity.toNat) ∧
    (full.constructed = true ∧ full.rxState ≠ .faulted ∧ full.threshold.toNat = full.capacity.toNat) ∧
    ({ halted with cfg := { Config.default with faultPolicy := .restartable } }.rxState = .faulted ∧
      { halted with cfg := { Config.default with faultPolicy := .restartable } }.cfg.faultPolicy = .restartable ∧
      halted.constructed = true ∧ 0 < halted.threshold.toNat ∧
      halted.threshold.toNat ≤ halted.capacity.toNat) := by decide

/-- Each answer, and both ways a threshold is bad: 0, and one above the capacity. -/
theorem witness_RxStartErrorsAreReportedInOrder :
    State.reset.constructed = false ∧
    (halted.constructed = true ∧ halted.rxState = .faulted ∧ halted.cfg.faultPolicy = .halt) ∧
    (ready.constructed = true ∧ ¬ (ready.rxState = .faulted ∧ ready.cfg.faultPolicy = .halt) ∧
      { ready with threshold := 0#8 }.threshold = 0#8 ∧
      ready.capacity.toNat < { ready with threshold := 4#8 }.threshold.toNat) := by decide

theorem witness_RdregAnswersEveryRegister : 0x0C ≤ (0x0C#8).toNat ∧ 0x0C ≤ (0xFF#8).toNat := by decide

theorem witness_StatusRegisterLayout :
    Coherent halted ∧ cmdReady halted = true ∧ ready.rxState = .idle ∧ (session .byte).rxState = .receiving ∧
      { ready with rxState := .completed }.rxState = .completed ∧ halted.rxState = .faulted :=
  ⟨coherent_halted, by decide⟩

/-! ### Witnesses: the receive sequencer -/

theorem witness_ResumeByteOpensTheSession :
    (InPhase (session .resume) .resume ∧ (session .resume).sinkReady = true) ∧
    (InPhase { session .resume with sinkReady := false } .resume ∧
      { session .resume with sinkReady := false }.sinkReady = false) :=
  ⟨⟨inPhase_session _, rfl⟩, ⟨rfl, rfl, rfl⟩, rfl⟩

/-- An item that goes on, one that is the delimiter, and one that reaches the threshold. -/
theorem witness_ByteIsPushedAndStopsAreDetected :
    (InPhase (session .byte) .byte ∧ (session .byte).source = [item 0x41#8] ∧ (item 0x41#8).clean = true ∧
      (session .byte).constructed = true ∧ (session .byte).length.toNat < (session .byte).capacity.toNat ∧
      ¬ ((item 0x41#8).data = (session .byte).delim ∨
        (session .byte).threshold.toNat ≤ (session .byte).length.toNat + 1)) ∧
    (item 0x0A#8).data = (session .byte).delim ∧
    { session .byte with threshold := 1#8 }.threshold.toNat ≤ (session .byte).length.toNat + 1 :=
  ⟨⟨inPhase_session _, by decide⟩, by decide, by decide⟩

/-- A diagnostic, a full buffer, and a fault raised. -/
theorem witness_ReceiveFaultEntry :
    (InPhase (session .byte) .byte ∧
      { data := 0#8, perr := true, ferr := false, oerr := true : SrcItem }.clean = false) ∧
    (InPhase fullSession .byte ∧ fullSession.source = [item 0x41#8] ∧
      fullSession.length = fullSession.capacity) ∧
    (Coherent fullSession ∧ ∃ t, step fullSession = .next t ∧ t.fault ≠ fullSession.fault ∧ t.fault ≠ 0#4) :=
  ⟨⟨inPhase_session _, by decide⟩, ⟨⟨rfl, rfl, rfl⟩, by decide⟩, coherent_fullSession, _, rfl, by decide⟩

theorem witness_PauseByteCompletesTheSession :
    (InPhase (session .pause) .pause ∧ (session .pause).sinkReady = true) ∧
    (InPhase { session .pause with sinkReady := false } .pause ∧
      { session .pause with sinkReady := false }.sinkReady = false) :=
  ⟨⟨inPhase_session _, rfl⟩, ⟨rfl, rfl, rfl⟩, rfl⟩

/-- `ready` with `RX_START` and these items offered. -/
def starting (items : List SrcItem) : State :=
  offering 0xB0000000#32 { ready with sinkReady := true, source := items }

/-- `full` with `RX_START` and one good item offered: threshold 1, as many as the capacity. -/
def startingFull : State :=
  offering 0xB0000000#32 { full with sinkReady := true, source := [item 1#8] }

/-- Both outcomes: the second of two items reaches the threshold; the second carries a frame error; and a session
that starts full, whose first item is good. -/
theorem witness_SessionEndsAtTheFirstStoppingItem :
    (∀ items, Coherent (starting items) ∧ Undisturbed (starting items) ∧ Issues (starting items) .rxStart ∧
      (starting items).constructed = true ∧ (starting items).rxState = .idle ∧
      (starting items).length.toNat = 0 ∧ (starting items).threshold.toNat = 2 ∧
      (starting items).capacity.toNat = 3 ∧ (starting items).delim = 0x0A#8) ∧
    (starting [item 1#8, item 2#8]).source = [item 1#8] ++ item 2#8 :: [] ∧
    (∀ (j : Nat) (h : j < [item 1#8].length), goesOn 0 2 3 0x0A#8 j [item 1#8][j]) ∧
    (¬ goesOn 0 2 3 0x0A#8 1 (item 2#8) ∧ (item 2#8).clean = true ∧ 0 + 1 ≠ 3) ∧
    (¬ goesOn 0 2 3 0x0A#8 1 { item 2#8 with ferr := true } ∧ { item 2#8 with ferr := true }.clean = false) ∧
    (Coherent startingFull ∧ Undisturbed startingFull ∧ Issues startingFull .rxStart ∧
      startingFull.constructed = true ∧ startingFull.rxState = .idle ∧ 0 < startingFull.threshold.toNat ∧
      startingFull.threshold.toNat ≤ startingFull.capacity.toNat ∧ startingFull.source = [] ++ item 1#8 :: [] ∧
      ¬ goesOn startingFull.length.toNat startingFull.threshold.toNat startingFull.capacity.toNat startingFull.delim
        0 (item 1#8) ∧
      startingFull.length.toNat + 0 = startingFull.capacity.toNat) := by
  refine ⟨fun items => ⟨coherent_ready.of_same (t := starting items) ⟨rfl, rfl, rfl, rfl, rfl, rfl⟩
    ⟨rfl, rfl, rfl, rfl, rfl⟩ ⟨rfl, rfl⟩ rfl, ⟨rfl, rfl, rfl⟩, issues_offering rfl rfl rfl (by decide), rfl, rfl, rfl, rfl, rfl, rfl⟩,
    rfl, ?_,
    ⟨?_, by decide⟩, ⟨?_, by decide⟩, coherent_full.of_same (t := startingFull) ⟨rfl, rfl, rfl, rfl, rfl, rfl⟩
    ⟨rfl, rfl, rfl, rfl, rfl⟩ ⟨rfl, rfl⟩ rfl, ⟨rfl, rfl, rfl⟩, issues_offering rfl rfl rfl (by decide), rfl, rfl,
    by decide, by decide, rfl, fun h => h.2.1 rfl, rfl⟩
  · intro j h
    obtain rfl : j = 0 := by simpa using h
    show goesOn 0 2 3 0x0A#8 0 (item 1#8)
    exact ⟨by decide, by decide, by decide, by decide⟩
  · exact fun h => absurd h.2.2.2 (by decide)
  · exact fun h => absurd h.1 (by decide)

/-- `two` in a session: two elements, threshold 2. -/
def twoSession : State :=
  { two with rxState := .receiving, phase := .byte, sinkReady := true, source := [item 0x41#8] }

theorem coherent_twoSession : Coherent twoSession :=
  ⟨by decide, by decide, by decide, by decide,
    fun _ => ⟨livePushed_two.written, livePushed_two.pushed, livePushed_two.kept⟩, by decide, by decide, by decide,
    by decide, by decide, by decide, by decide⟩

/-- Below capacity and below the threshold (`SEQ_RESUME`, then a byte); at the threshold; full; and at the threshold
but not full, up to `PH_PAUSE` with SINK ready. -/
theorem witness_BufferFullOnlyWhenTheSessionStartsFull :
    (Coherent (session .resume) ∧ BelowCapacity (session .resume) ∧
      (session .resume).length.toNat < (session .resume).threshold.toNat ∧
      ∃ t, InOneSession (session .resume) t ∧ t.taken = 1) ∧
    (Coherent twoSession ∧ BelowCapacity twoSession ∧ twoSession.threshold.toNat ≤ twoSession.length.toNat) ∧
    (InPhase fullSession .byte ∧ fullSession.length = fullSession.capacity ∧
      fullSession.source = [item 0x41#8]) ∧
    (InPhase twoSession .byte ∧ twoSession.threshold.toNat ≤ twoSession.length.toNat ∧
      twoSession.length.toNat < twoSession.capacity.toNat ∧ twoSession.source = [item 0x41#8] ∧
      (item 0x41#8).clean = true ∧
      ∃ t, step twoSession = .next t ∧ InPhase t .pause ∧ t.sinkReady = true) :=
  ⟨⟨coherent_session _ (by decide), ⟨.inl rfl, by decide⟩, by decide, _,
      .step (.step .here (by decide) rfl) (by decide) rfl, by decide⟩,
    ⟨coherent_twoSession, ⟨.inr rfl, by decide⟩, by decide⟩, ⟨⟨rfl, rfl, rfl⟩, rfl, rfl⟩,
    ⟨rfl, rfl, rfl⟩, by decide, by decide, rfl, by decide, _, rfl, ⟨rfl, rfl, rfl⟩, rfl⟩

/-- A byte that goes on, and a move of the environment. -/
theorem witness_RoomIsKeptUntilTheSessionStops :
    (Coherent (session .byte) ∧ BelowCapacity (session .byte) ∧
      ∃ t, step (session .byte) = .next t ∧ t.phase = .byte ∧ t.taken = 1) ∧
    (Coherent { session .byte with moves := [.setSinkReady false] } ∧
      BelowCapacity { session .byte with moves := [.setSinkReady false] } ∧
      ∃ t, step { session .byte with moves := [.setSinkReady false] } = .next t ∧ t.phase = .byte) :=
  ⟨⟨coherent_session _ (by decide), ⟨.inr rfl, by decide⟩, _, rfl, by decide⟩,
    coherent_moves (coherent_session _ (by decide)) _, ⟨.inr rfl, by decide⟩, _, rfl, by decide⟩

/-! ### Witnesses: what pushes wrote -/

/-- A queue of two; a push, a received byte, a `CONSTRUCT`, a reset, and HOST's write in the region and behind it. -/
theorem witness_QueueIsWhatPushesWroteSinceTheConstruct :
    (Coherent two ∧ two.constructed = true ∧ two.hostKept = true ∧
      pushedQueue two = [some 0x43#8, some 0x41#8]) ∧
    (∃ t, step (offering 0x20000041#32 two) = .next t ∧ t.accesses = [] ++ [.write 0x0101#16 0x41#8]) ∧
    (∃ t, step (session .byte) = .next t ∧ t.accesses = [] ++ [.write 0x0100#16 0x41#8]) ∧
    (Issues (offering 0x10000101#32 two) (.construct 0x0001#16 1#8) ∧
      ∃ t, step (offering 0x10000101#32 two) = .next t ∧ t.pushed ≠ two.pushed) ∧
    (clockEdge { two with rst := true } = true ∧ ∃ t, step { two with rst := true } = .next t) ∧
    (inRegion two 0x0102#16 ∧ ∃ t, step { two with moves := [.hostWrite 0x0102#16 9#8] } = .next t ∧
      t.hostKept = false) ∧
    (∃ t, step { two with moves := [.hostWrite 0x0103#16 9#8] } = .next t ∧ t.hostKept = true) :=
  ⟨⟨coherent_two, by decide⟩, ⟨_, rfl, by decide⟩, ⟨_, rfl, by decide⟩,
    ⟨issues_offering rfl rfl rfl (by decide), _, rfl, by decide⟩, ⟨rfl, _, rfl⟩, ⟨⟨2#8, by decide⟩, _, rfl, by decide⟩,
    _, rfl, by decide⟩

end Sys2Proof.Tests
end

section
/-! PROOFS. The family of `10_state.md`: what reset loads (R36, R240) and the layout of `STATUS` (R41, R94). -/

namespace Sys2Proof.Machine

open Sys2Proof

/-! ### The flags and the status wires -/

theorem fullFlag_eq (s : State) : fullFlag s = (s.constructed && decide (s.length = s.capacity)) := rfl

theorem emptyFlag_eq (s : State) : emptyFlag s = (s.constructed && decide (s.length = 0#8)) := rfl

theorem rxFaultWire_eq (s : State) : rxFaultWire s = s.fault := rfl

theorem rxStateWire_eq (s : State) : rxStateWire s = rxStateCode s.rxState := rfl

theorem rxStateCode_eq_one_iff (x : RxState) : rxStateCode x = 1#2 ↔ x = .receiving := by
  cases x <;> decide

/-- The block takes commands exactly outside a session and out of reset (R96). -/
theorem cmdReady_iff (s : State) : cmdReady s = true ↔ s.phase = .none ∧ s.rst = false := by
  simp [cmdReady]

/-- No session is on where a command can be taken (R35 INV8). -/
theorem Coherent.not_receiving_of_cmdReady {s : State} (h : Coherent s) (hr : cmdReady s = true) :
    s.rxState ≠ .receiving :=
  fun hx => h.inv8.mpr hx ((cmdReady_iff s).mp hr).1

/-! ### The fields of `STATUS` (R41) -/

/-- `STATUS` bit by bit, from bit 0 up: `CONSTRUCTED`, `FULL`, `EMPTY`, a zero, then `STATE` and zeros. -/
theorem getLsbD_statusByte (s : State) (i : Nat) :
    (statusByte s).getLsbD i =
      if i = 0 then s.constructed else if i = 1 then fullFlag s else if i = 2 then emptyFlag s
      else if i = 3 then false else (rxStateCode s.rxState).getLsbD (i - 4) := by
  change BitVec.getLsbD (w := 2 + 2 + 1 + 1 + 1 + 1) (0b00#2 ++ rxStateCode s.rxState ++ 0b0#1 ++
    BitVec.ofBool (emptyFlag s) ++ BitVec.ofBool (fullFlag s) ++ BitVec.ofBool s.constructed) i = _
  rw [BitVec.getLsbD_append, BitVec.getLsbD_append, BitVec.getLsbD_append, BitVec.getLsbD_append,
    BitVec.getLsbD_append]
  match i with
  | 0 | 1 | 2 | 3 => simp
  | j + 4 =>
    have inState : (rxStateCode s.rxState).getLsbD j = true → j ≤ 1 :=
      fun h => Nat.le_of_lt_succ (BitVec.lt_of_getLsbD h)
    simpa using inState

/-- The upper half of `STATUS` is `STATE`, extended by zeros. -/
theorem getLsbD_statusByte_four_add (s : State) (j : Nat) :
    (statusByte s).getLsbD (4 + j) = (rxStateCode s.rxState).getLsbD j := by
  rw [getLsbD_statusByte, if_neg (by omega), if_neg (by omega), if_neg (by omega), if_neg (by omega),
    Nat.add_sub_cancel_left]

theorem statusByte_stateField (s : State) :
    (statusByte s).extractLsb' 4 2 = rxStateCode s.rxState := by
  ext i hi
  rw [BitVec.getElem_extractLsb', getLsbD_statusByte_four_add, BitVec.getLsbD_eq_getElem hi]

theorem statusByte_topBits (s : State) : (statusByte s).extractLsb' 6 2 = 0#2 := by
  ext i hi
  rw [BitVec.getElem_extractLsb', show 6 + i = 4 + (2 + i) by omega, getLsbD_statusByte_four_add,
    BitVec.getLsbD_of_ge _ _ (Nat.le_add_right 2 i), BitVec.getElem_zero]

/-! ### `RDREG` of `STATUS` -/

theorem responseWord_ok (d : Byte) : responseWord .ok d = okWord d := rfl

theorem exec_rdreg_status (s : State) :
    exec (.rdreg 0x08#8) s = .next (respond .ok (statusByte s) s) := rfl

theorem answered_respond_ok (d : Byte) (s : State) : Answered s (respond .ok d s) (okWord d) :=
  ⟨by rw [respond_responses, responseWord_ok], respond_draws _ _ _⟩

theorem statusByte_stateField_ne_one {s : State} (h : Coherent s) (hr : cmdReady s = true) :
    (statusByte s).extractLsb' 4 2 ≠ 1#2 := by
  rw [statusByte_stateField]
  exact fun hx => h.not_receiving_of_cmdReady hr ((rxStateCode_eq_one_iff _).mp hx)

/-! ### Reset -/

theorem blockStep_of_rst {s : State} (hr : s.rst = true) : blockStep s = .next (resetBlock s) :=
  if_pos hr

/-- A clock edge with `rst` 1 is a reset, whatever the phase (R219, R240). -/
theorem step_of_rst {s : State} (he : clockEdge s = true) (hr : s.rst = true) :
    step s = .next (resetBlock { s with moves := s.moves.tail }) :=
  (step_edge he).trans (blockStep_of_rst hr)

theorem sameRing_reset_resetBlock (s : State) : SameRing State.reset (resetBlock s) :=
  ⟨resetBlock_capacity s, resetBlock_length s, resetBlock_front s, resetBlock_back s, resetBlock_storeBase s,
    resetBlock_constructed s⟩

theorem sameReceiver_reset_resetBlock (s : State) : SameReceiver State.reset (resetBlock s) :=
  ⟨resetBlock_threshold s, resetBlock_delim s, resetBlock_rxState s, resetBlock_fault s, resetBlock_phase s⟩

theorem sameStore_resetBlock (s : State) : SameStore s (resetBlock s) :=
  ⟨fun a => congrArg (Memory.read · a) (resetBlock_store s), resetBlock_accesses s⟩

theorem fullFlag_of_not_constructed {s : State} (h : s.constructed = false) : fullFlag s = false := by
  rw [fullFlag_eq, h, Bool.false_and]

theorem emptyFlag_of_not_constructed {s : State} (h : s.constructed = false) : emptyFlag s = false := by
  rw [emptyFlag_eq, h, Bool.false_and]

/-- Where no byte has been written, an address reads as its power-on byte (U12). -/
theorem Memory.read_nil (a : Addr) : Memory.read [] a = Config.powerOnByte a := rfl

end Sys2Proof.Machine

namespace Sys2Proof.Proofs

open Sys2Proof Sys2Proof.Machine

/-- Settles O50: each field of `STATUS` by its lemma; the `STATE` field by INV8, since a command is taken only
outside a session; the wires by the encoding of `STATE` and the definitions of the flags. -/
theorem statusRegisterLayout : Obligations.StatusRegisterLayout := by
  refine ⟨fun s => ?layout, fun s hs hr => ?rdreg, fun s => ?wires⟩
  case layout =>
    exact ⟨getLsbD_statusByte s 0, getLsbD_statusByte s 1, getLsbD_statusByte s 2, getLsbD_statusByte s 3,
      statusByte_stateField s, statusByte_topBits s⟩
  case rdreg =>
    exact ⟨_, exec_rdreg_status s, answered_respond_ok _ s, statusByte_stateField_ne_one hs hr⟩
  case wires =>
    have wire {x : RxState} (h : s.rxState = x) : rxStateWire s = rxStateCode x := by
      rw [rxStateWire_eq, h]
    exact ⟨wire, wire, wire, wire, fullFlag_eq s, emptyFlag_eq s, rxFaultWire_eq s⟩

/-- Settles O12: `State.reset` by its fields; at a clock edge with `rst` 1 the step is `resetBlock`, whose field
lemmas give the rest. -/
theorem resetLoadsEveryResetValue : Obligations.ResetLoadsEveryResetValue := by
  refine ⟨⟨rfl, rfl, rfl, rfl, rfl, rfl, rfl, rfl, rfl, rfl, rfl, ?full, ?empty, Memory.read_nil⟩,
    fun s he hr => ⟨_, step_of_rst he hr, ?ring, ?receiver, ?fullAfter, ?emptyAfter, ?store, ?responses⟩⟩
  case full => exact fullFlag_of_not_constructed rfl
  case empty => exact emptyFlag_of_not_constructed rfl
  case ring => exact sameRing_reset_resetBlock _
  case receiver => exact sameReceiver_reset_resetBlock _
  case fullAfter => exact fullFlag_of_not_constructed (resetBlock_constructed _)
  case emptyAfter => exact emptyFlag_of_not_constructed (resetBlock_constructed _)
  case store =>
    obtain ⟨bytes, accesses⟩ := sameStore_resetBlock { s with moves := s.moves.tail }
    exact ⟨bytes, accesses⟩
  case responses => exact resetBlock_responses _

end Sys2Proof.Proofs
end

section
/-! PROOFS. The family of `20_memory.md`: the STORE accesses of each command and sequencer step (R64). -/

namespace Sys2Proof.Machine

open Sys2Proof

/-! ### One write, one read, no access: from the fields of the two states -/

theorem wroteOne_of_fields {s t : State} {a : Addr} {v : Byte} (hs : t.store = Memory.set a.toNat v s.store)
    (ha : t.accesses = s.accesses ++ [.write a v]) (hp : t.pushed = Memory.set a.toNat v s.pushed)
    (hk : t.hostKept = s.hostKept) : WroteOne s t a v where
  here := by rw [hs, Memory.read_set_same]
  elsewhere b hb := by rw [hs, Memory.read_set_other hb]
  accesses := ha
  pushed := hp
  hostKept := hk

theorem readOne_of_fields {s t : State} {a : Addr} (hs : t.store = s.store)
    (ha : t.accesses = s.accesses ++ [.read a (Memory.read s.store a)]) (hr : SameRecord s t) :
    ReadOne s t a where
  bytes b := by rw [hs]
  accesses := ha
  record := hr

theorem sameStore_of_fields {s t : State} (hs : t.store = s.store) (ha : t.accesses = s.accesses) :
    SameStore s t where
  bytes b := by rw [hs]
  accesses := ha

/-! ### An answer `Ok` -/

/-- The step from `s` to `t` answers `Ok`, with some data. -/
def AnsweredOk (s t : State) : Prop := ∃ d, t.responses = s.responses ++ [okWord d]

theorem answeredOk_respond_ok {s t : State} (h : t.responses = s.responses) (d : Byte) :
    AnsweredOk s (respond .ok d t) :=
  ⟨d, by rw [respond_responses, h, responseWord_ok]⟩

theorem statusOf_responseWord (st : Status) (d : Byte) : statusOf (responseWord st d) = statusCode st := by
  apply BitVec.eq_of_toNat_eq
  have hd := d.isLt
  have hst := (statusCode st).isLt
  simp only [statusOf, responseWord, BitVec.extractLsb'_toNat, Nat.shiftRight_eq_div_pow, toNat_join,
    BitVec.toNat_ofNat]
  omega

/-- The code 0 is that of `Ok` alone (R99). -/
theorem eq_ok_of_statusCode {st : Status} (h : statusCode st = statusCode .ok) : st = .ok := by
  cases st with
  | ok => rfl
  | _ => exact absurd h (by decide)

theorem not_answeredOk {s t : State} {st : Status} {d : Byte} (hst : st ≠ .ok)
    (h : t.responses = s.responses ++ [responseWord st d]) : ¬ AnsweredOk s t := by
  rintro ⟨e, he⟩
  have hword : responseWord st d = responseWord .ok e := by
    rw [responseWord_ok]
    exact List.singleton_inj.mp (List.append_cancel_left (h.symm.trans he))
  have hcode := congrArg statusOf hword
  rw [statusOf_responseWord, statusOf_responseWord] at hcode
  exact hst (eq_ok_of_statusCode hcode)

/-! ### The accesses of a command -/

/-- What a command does with STORE (R64): it succeeds and writes its slot, or succeeds and reads its slot; and it
makes no access when it fails or has no slot. -/
inductive StoreUse (i : Instr) (s t : State) : Prop
  | writes (a : Addr) (v : Byte) (ok : AnsweredOk s t) (slotW : slotWritten i s = some (a, v))
      (slotR : slotRead i s = none) (wrote : WroteOne s t a v)
  | reads (a : Addr) (ok : AnsweredOk s t) (slotW : slotWritten i s = none) (slotR : slotRead i s = some a)
      (read : ReadOne s t a)
  | fails (notOk : ¬ AnsweredOk s t) (same : SameStore s t)
  | noSlot (slotW : slotWritten i s = none) (slotR : slotRead i s = none) (same : SameStore s t)

theorem storeUse_of_execDoes {i : Instr} {s t : State} (h : ExecDoes s i t) : StoreUse i s t := by
  cases h with
  | answers _ st d hd =>
    have same : SameStore s (respond st d s) := sameStore_of_fields (respond_store st d s) (respond_accesses st d s)
    rcases hd with hst | rfl | rfl | ⟨n, rfl⟩
    · exact .fails (not_answeredOk hst (respond_responses st d s)) same
    all_goals exact .noSlot rfl rfl same
  | answersAny _ st _ hst =>
    have failed : st ≠ .ok := by rcases hst with rfl | rfl <;> decide
    exact .fails (not_answeredOk failed (respondAny8_responses st s))
      (sameStore_of_fields (respondAny8_store st s) (respondAny8_accesses st s))
  | construct store capacity _ _ =>
    exact .noSlot rfl rfl
      (sameStore_of_fields (newQueue_store store capacity s) (newQueue_accesses store capacity s))
  | pushBack d _ _ =>
    exact .writes _ d (answeredOk_respond_ok (placeBack_responses d s) _) rfl rfl
      (wroteOne_of_fields (placeBack_store d s) (placeBack_accesses d s) (placeBack_pushed d s)
        (placeBack_hostKept d s))
  | pushFront d _ _ =>
    exact .writes _ d (answeredOk_respond_ok (placeFront_responses d s) _) rfl rfl
      (wroteOne_of_fields (placeFront_store d s) (placeFront_accesses d s) (placeFront_pushed d s)
        (placeFront_hostKept d s))
  | popBack _ _ =>
    exact .reads _ (answeredOk_respond_ok (takeBack_responses s) _) rfl rfl
      (readOne_of_fields (takeBack_store s) (takeBack_accesses s) ⟨takeBack_pushed s, takeBack_hostKept s⟩)
  | popFront _ _ =>
    exact .reads _ (answeredOk_respond_ok (takeFront_responses s) _) rfl rfl
      (readOne_of_fields (takeFront_store s) (takeFront_accesses s) ⟨takeFront_pushed s, takeFront_hostKept s⟩)
  | peekFront _ _ =>
    exact .reads _ (answeredOk_respond_ok (lookFront_responses s) _) rfl rfl
      (readOne_of_fields (lookFront_store s) (lookFront_accesses s) ⟨lookFront_pushed s, lookFront_hostKept s⟩)
  | peekBack _ _ =>
    exact .reads _ (answeredOk_respond_ok (lookBack_responses s) _) rfl rfl
      (readOne_of_fields (lookBack_store s) (lookBack_accesses s) ⟨lookBack_pushed s, lookBack_hostKept s⟩)
  | rxConfig threshold delimiter => exact .noSlot rfl rfl (sameStore_of_fields rfl rfl)
  | rxStart _ _ _ =>
    exact .noSlot rfl rfl (sameStore_of_fields (startSession_store s) (startSession_accesses s))

/-! ### What a command's use of STORE says of its slot -/

theorem StoreUse.wroteOne {i : Instr} {s t : State} (h : StoreUse i s t) {a : Addr} {v : Byte}
    (hok : AnsweredOk s t) (hw : slotWritten i s = some (a, v)) : WroteOne s t a v := by
  cases h with
  | writes _ _ _ slotW _ wrote =>
    cases slotW.symm.trans hw
    exact wrote
  | reads _ _ slotW _ _ => cases slotW.symm.trans hw
  | fails notOk _ => exact absurd hok notOk
  | noSlot slotW _ _ => cases slotW.symm.trans hw

theorem StoreUse.readOne {i : Instr} {s t : State} (h : StoreUse i s t) {a : Addr}
    (hok : AnsweredOk s t) (hr : slotRead i s = some a) : ReadOne s t a := by
  cases h with
  | writes _ _ _ _ slotR _ => cases slotR.symm.trans hr
  | reads _ _ _ slotR read =>
    cases slotR.symm.trans hr
    exact read
  | fails notOk _ => exact absurd hok notOk
  | noSlot _ slotR _ => cases slotR.symm.trans hr

theorem StoreUse.sameStore {i : Instr} {s t : State} (h : StoreUse i s t)
    (hn : ¬ AnsweredOk s t ∨ (slotWritten i s = none ∧ slotRead i s = none)) : SameStore s t := by
  cases h with
  | writes _ _ ok slotW _ _ =>
    rcases hn with notOk | ⟨noW, _⟩
    · exact absurd ok notOk
    · cases slotW.symm.trans noW
  | reads _ ok _ slotR _ =>
    rcases hn with notOk | ⟨_, noR⟩
    · exact absurd ok notOk
    · cases slotR.symm.trans noR
  | fails _ same => exact same
  | noSlot _ _ same => exact same

/-! ### The accesses of the sequencer -/

theorem sameStore_seqResume (s : State) : SameStore s (seqResume s) := by
  rcases seqResume_cases s with ⟨_, e⟩ | ⟨_, e⟩ <;> rw [e]
  · exact sameStore_of_fields rfl rfl
  · exact sameStore_of_fields (snkWrite_store s.cfg.resumeCode s) (snkWrite_accesses s.cfg.resumeCode s)

theorem sameStore_seqPause (s : State) : SameStore s (seqPause s) := by
  rcases seqPause_cases s with ⟨_, e⟩ | ⟨_, e⟩ <;> rw [e]
  · exact sameStore_of_fields rfl rfl
  · exact sameStore_of_fields (snkWrite_store s.cfg.pauseCode s) (snkWrite_accesses s.cfg.pauseCode s)

theorem seqByte_cons {s : State} {it : SrcItem} {rest : List SrcItem} (h : s.source = it :: rest) :
    seqByte s = receiveItem it (srcTake rest s) := by
  rw [seqByte, h]

/-- An item that is pushed: the one write of `placeBack`, whether or not the session goes on. -/
theorem wroteOne_receiveItem {it : SrcItem} {s : State} (rest : List SrcItem) (hc : it.clean = true)
    (hl : s.length ≠ s.capacity) :
    WroteOne s (receiveItem it (srcTake rest s)) (slot s.storeBase s.back) it.data := by
  rcases receiveItem_cases it (srcTake rest s) with ⟨dirty, _⟩ | ⟨_, isFull, _⟩ | ⟨_, _, _, e⟩ | ⟨_, _, _, e⟩
  · exact absurd hc (ne_true_of_eq_false dirty)
  · exact absurd isFull hl
  all_goals
    rw [e]
    exact wroteOne_of_fields (placeBack_store it.data (srcTake rest s)) (placeBack_accesses it.data (srcTake rest s))
      (placeBack_pushed it.data (srcTake rest s)) (placeBack_hostKept it.data (srcTake rest s))

theorem sameStore_raiseReceiveFault_srcTake (m : BitVec 4) (rest : List SrcItem) (s : State) :
    SameStore s (raiseReceiveFault m (srcTake rest s)) :=
  sameStore_of_fields (raiseReceiveFault_store _ _) (raiseReceiveFault_accesses _ _)

/-- An item that faults the session, by a diagnostic or on a full buffer, is dropped without an access. -/
theorem sameStore_receiveItem {it : SrcItem} {s : State} (rest : List SrcItem)
    (h : it.clean = false ∨ s.length = s.capacity) : SameStore s (receiveItem it (srcTake rest s)) := by
  have notPushed : ¬ (it.clean = true ∧ s.length ≠ s.capacity) := fun ⟨hc, hl⟩ =>
    h.elim (fun dirty => ne_true_of_eq_false dirty hc) hl
  rcases receiveItem_cases it (srcTake rest s) with ⟨_, e⟩ | ⟨_, _, e⟩ | ⟨hc, hl, _⟩ | ⟨hc, hl, _⟩
  · rw [e]
    exact sameStore_raiseReceiveFault_srcTake _ rest s
  · rw [e]
    exact sameStore_raiseReceiveFault_srcTake _ rest s
  · exact absurd ⟨hc, hl⟩ notPushed
  · exact absurd ⟨hc, hl⟩ notPushed

end Sys2Proof.Machine

namespace Sys2Proof.Proofs

open Sys2Proof Sys2Proof.Machine

/-- Settles O30: a command by its use of STORE, one case for each thing `exec_does` lets it do; `SEQ_BYTE` by what
becomes of the item it takes. -/
theorem storeAccessesAreCounted : Obligations.StoreAccessesAreCounted := by
  refine ⟨fun i s t h => ?command, fun s => ⟨sameStore_seqResume s, sameStore_seqPause s⟩,
    fun s it rest hs => ?byte⟩
  case command =>
    have use : StoreUse i s t := storeUse_of_execDoes (exec_does h)
    exact ⟨fun _ _ => use.wroteOne, fun _ => use.readOne, use.sameStore⟩
  case byte =>
    rw [seqByte_cons hs]
    exact ⟨fun ⟨hc, hl⟩ => wroteOne_receiveItem rest hc hl, sameStore_receiveItem rest⟩

end Sys2Proof.Proofs
end

section
/-! PROOFS. The family of `30_encoding.md`: the legal words are exactly the encodings of the commands, so the rows of
R100 select exactly the words that decode (R102); and the answer to every other word (R103). -/

namespace Sys2Proof

/-! ### A word and its fields (R97) -/

theorem cmdWord_eq {w : CmdWord} {op : BitVec 4} (hop : (opField w).toNat = op.toNat) (hz : zField w = 0#4) :
    cmdWord op (aField w) (bField w) = w := by
  have zeroZ : (zField w).toNat = 0 := congrArg BitVec.toNat hz
  rw [toNat_opField] at hop
  rw [toNat_zField] at zeroZ
  apply BitVec.eq_of_toNat_eq
  rw [toNat_cmdWord, toNat_aField, toNat_bField]
  have hw := w.isLt
  omega

theorem aField_eq_append (w : CmdWord) : aField w = aHigh w ++ aLow w := by
  apply BitVec.eq_of_toNat_eq
  rw [toNat_join, toNat_aField, toNat_aHigh, toNat_aLow]
  omega

/-! ### The legal words are the encodings -/

theorem legalIf_eq_legal_iff {zero : Bool} {i j : Instr} : legalIf zero i = .legal j ↔ zero = true ∧ i = j := by
  cases zero <;> simp [legalIf]

theorem decode_encode (i : Instr) : decode (encode i) = .legal i := by
  cases i <;> simp [decode, encode, legalIf]

/-- No bit of a legal word is dropped: each part of it is an operand of the command or was tested to be zero. One case
for each shape of the operands: a reserved opcode, `a` and `b` (`CONSTRUCT`), `a[7:0]` and `b` (`RX_CONFIG`), `b`, none. -/
theorem encode_of_decode {w : CmdWord} {i : Instr} (h : decode w = .legal i) : encode i = w := by
  unfold decode at h
  split at h
  case h_13 => cases h
  all_goals
    rename_i hop
    simp only [legalIf_eq_legal_iff, Bool.and_eq_true, beq_iff_eq] at h
  case h_1 =>
    obtain ⟨hz, rfl⟩ := h
    exact cmdWord_eq hop hz
  case h_10 =>
    obtain ⟨⟨hz, hhigh⟩, rfl⟩ := h
    rw [encode, ← hhigh, ← aField_eq_append]
    exact cmdWord_eq hop hz
  case h_2 | h_3 | h_12 =>
    obtain ⟨⟨hz, ha⟩, rfl⟩ := h
    rw [encode, ← ha]
    exact cmdWord_eq hop hz
  all_goals
    obtain ⟨⟨⟨hz, ha⟩, hb⟩, rfl⟩ := h
    rw [encode, ← ha, ← hb]
    exact cmdWord_eq hop hz

theorem legal_or_illegal (w : CmdWord) : (∃ i, decode w = .legal i) ∨ ∃ why, decode w = .illegal why := by
  cases decode w with
  | legal i => exact .inl ⟨i, rfl⟩
  | illegal why => exact .inr ⟨why, rfl⟩

theorem illegal_of_forall_encode_ne {w : CmdWord} (h : ∀ i, encode i ≠ w) : ∃ why, decode w = .illegal why :=
  (legal_or_illegal w).resolve_left fun ⟨i, hi⟩ => h i (encode_of_decode hi)

/-! ### The rows select the encodings (R102) -/

/-- `Laws.EncodesItsRow` of every command. -/
theorem selects_encode_iff (i : Instr) {r : CommandRow} (hr : r ∈ commandRows) :
    r.selects (encode i) = true ↔ r.mnemonic = i.mnemonic := by
  cases i with
  | construct store capacity => exact Laws.EncodesItsRow.construct store capacity r hr
  | pushBack data => exact Laws.EncodesItsRow.pushBack data r hr
  | pushFront data => exact Laws.EncodesItsRow.pushFront data r hr
  | popBack => exact Laws.EncodesItsRow.popBack r hr
  | popFront => exact Laws.EncodesItsRow.popFront r hr
  | isFull => exact Laws.EncodesItsRow.isFull r hr
  | isEmpty => exact Laws.EncodesItsRow.isEmpty r hr
  | peekFront => exact Laws.EncodesItsRow.peekFront r hr
  | peekBack => exact Laws.EncodesItsRow.peekBack r hr
  | rxConfig threshold delimiter => exact Laws.EncodesItsRow.rxConfig threshold delimiter r hr
  | rxStart => exact Laws.EncodesItsRow.rxStart r hr
  | rdreg n => exact Laws.EncodesItsRow.rdreg n r hr

/-- A row fixes every bit above its `k` free ones, so it selects one word for each value of these. -/
theorem encode_eq_of_selects (k : Nat) {r : CommandRow} {w : CmdWord} {i : Instr} (hr : r ∈ commandRows)
    (hm : r.mask = BitVec.allOnes 32 <<< k) (hp : r.pattern.toNat % 2 ^ k = 0) (hn : r.mnemonic = i.mnemonic)
    (low : (encode i).toNat ≡ w.toNat [MOD 2 ^ k]) (h : r.selects w = true) : encode i = w := by
  have high : (encode i).toNat / 2 ^ k = w.toNat / 2 ^ k :=
    ((selects_iff r k hm hp _).mp ((selects_encode_iff i hr).mpr hn)).trans
      ((selects_iff r k hm hp w).mp h).symm
  apply BitVec.eq_of_toNat_eq
  rw [← Nat.div_add_mod (encode i).toNat (2 ^ k), high, low, Nat.div_add_mod]

theorem cmdWord_modEq_b (op : BitVec 4) (a : BitVec 16) (w : CmdWord) :
    (cmdWord op a (bField w)).toNat ≡ w.toNat [MOD 2 ^ 8] := by
  rw [Nat.ModEq, toNat_cmdWord, toNat_bField]
  omega

theorem cmdWord_modEq_aLow_b (op : BitVec 4) (u : Byte) (w : CmdWord) :
    (cmdWord op (u ++ aLow w) (bField w)).toNat ≡ w.toNat [MOD 2 ^ 16] := by
  rw [Nat.ModEq, toNat_cmdWord, toNat_join, toNat_aLow, toNat_bField]
  omega

theorem cmdWord_modEq_ab (op : BitVec 4) (w : CmdWord) :
    (cmdWord op (aField w) (bField w)).toNat ≡ w.toNat [MOD 2 ^ 24] := by
  rw [Nat.ModEq, toNat_cmdWord, toNat_aField, toNat_bField]
  omega

/-- What a row's mask leaves free are the operand fields of its command, so a word it selects encodes one. -/
theorem exists_encode_of_selects {r : CommandRow} (hr : r ∈ commandRows) {w : CmdWord}
    (h : r.selects w = true) : ∃ i, encode i = w := by
  have row := hr
  simp only [commandRows, List.mem_cons, List.not_mem_nil, or_false] at row
  rcases row with rfl | rfl | rfl | rfl | rfl | rfl | rfl | rfl | rfl | rfl | rfl | rfl
  · exact ⟨.construct (aField w) (bField w),
      encode_eq_of_selects 24 hr (by decide) (by decide) rfl (cmdWord_modEq_ab _ w) h⟩
  · exact ⟨.pushBack (bField w),
      encode_eq_of_selects 8 hr (by decide) (by decide) rfl (cmdWord_modEq_b _ _ w) h⟩
  · exact ⟨.pushFront (bField w),
      encode_eq_of_selects 8 hr (by decide) (by decide) rfl (cmdWord_modEq_b _ _ w) h⟩
  · exact ⟨.popBack, encode_eq_of_selects 0 hr (by decide) (by decide) rfl Nat.modEq_one h⟩
  · exact ⟨.popFront, encode_eq_of_selects 0 hr (by decide) (by decide) rfl Nat.modEq_one h⟩
  · exact ⟨.isFull, encode_eq_of_selects 0 hr (by decide) (by decide) rfl Nat.modEq_one h⟩
  · exact ⟨.isEmpty, encode_eq_of_selects 0 hr (by decide) (by decide) rfl Nat.modEq_one h⟩
  · exact ⟨.peekFront, encode_eq_of_selects 0 hr (by decide) (by decide) rfl Nat.modEq_one h⟩
  · exact ⟨.peekBack, encode_eq_of_selects 0 hr (by decide) (by decide) rfl Nat.modEq_one h⟩
  · exact ⟨.rxConfig (aLow w) (bField w),
      encode_eq_of_selects 16 hr (by decide) (by decide) rfl (cmdWord_modEq_aLow_b _ _ w) h⟩
  · exact ⟨.rxStart, encode_eq_of_selects 0 hr (by decide) (by decide) rfl Nat.modEq_one h⟩
  · exact ⟨.rdreg (bField w),
      encode_eq_of_selects 8 hr (by decide) (by decide) rfl (cmdWord_modEq_b _ _ w) h⟩

theorem selects_iff_decode {r : CommandRow} (hr : r ∈ commandRows) (w : CmdWord) :
    r.selects w = true ↔ ∃ i, decode w = .legal i ∧ i.mnemonic = r.mnemonic := by
  constructor
  · intro h
    obtain ⟨i, rfl⟩ := exists_encode_of_selects hr h
    exact ⟨i, decode_encode i, ((selects_encode_iff i hr).mp h).symm⟩
  · rintro ⟨i, hd, hn⟩
    rw [← encode_of_decode hd]
    exact (selects_encode_iff i hr).mpr hn.symm

theorem selects_eq_false_of_illegal {w : CmdWord} {why : Illegal} (h : decode w = .illegal why)
    {r : CommandRow} (hr : r ∈ commandRows) : r.selects w = false := by
  rw [← Bool.not_eq_true, selects_iff_decode hr, h]
  rintro ⟨i, legal, _⟩
  cases legal

theorem exists_row_of_mnemonic (i : Instr) : ∃ r ∈ commandRows, r.mnemonic = i.mnemonic := by
  cases i <;> simp [commandRows, Instr.mnemonic]

theorem wellFormedWord_encode (i : Instr) : wellFormedWord (encode i) = true := by
  obtain ⟨r, hr, hn⟩ := exists_row_of_mnemonic i
  exact List.any_eq_true.mpr ⟨r, hr, (selects_encode_iff i hr).mpr hn⟩

/-! ### Must-be-zero parts and reserved opcodes -/

/-- The word has a 1 in `z`, or in a part of `a` or `b` that must be zero for its opcode (R97, R102). -/
def SetsMustBeZero (w : CmdWord) : Prop :=
  zField w ≠ 0#4 ∨ (opField w ∉ [0x1#4, 0xA#4] ∧ aField w ≠ 0#16) ∨
    (opField w = 0xA#4 ∧ aHigh w ≠ 0#8) ∨
    (opField w ∈ [0x4#4, 0x5#4, 0x6#4, 0x7#4, 0x8#4, 0x9#4, 0xB#4] ∧ bField w ≠ 0#8)

theorem not_setsMustBeZero_encode (i : Instr) : ¬ SetsMustBeZero (encode i) := by
  cases i <;> simp [SetsMustBeZero, encode]

theorem illegal_of_setsMustBeZero {w : CmdWord} (h : SetsMustBeZero w) : ∃ why, decode w = .illegal why :=
  illegal_of_forall_encode_ne fun i e => not_setsMustBeZero_encode i (e ▸ h)

theorem opField_encode_not_reserved (i : Instr) : opField (encode i) ∉ [0x0#4, 0xD#4, 0xE#4, 0xF#4] := by
  cases i <;> simp [encode]

theorem illegal_of_opField_reserved {w : CmdWord} (h : opField w ∈ [0x0#4, 0xD#4, 0xE#4, 0xF#4]) :
    ∃ why, decode w = .illegal why :=
  illegal_of_forall_encode_ne fun i e => opField_encode_not_reserved i (e ▸ h)

theorem illegal_of_not_wellFormedWord {w : CmdWord} (h : wellFormedWord w = false) :
    ∃ why, decode w = .illegal why :=
  illegal_of_forall_encode_ne fun i e => ne_true_of_eq_false h (e ▸ wellFormedWord_encode i)

end Sys2Proof

namespace Sys2Proof.Machine

open Sys2Proof

/-! ### A step that transfers a word (R91, R96) -/

theorem blockStep_of_phase_none {s : State} (hr : s.rst = false) (hp : s.phase = .none) :
    blockStep s = takeCommand s := by
  rw [blockStep, hr, hp]
  rfl

theorem takeCommand_cons {s : State} {w : CmdWord} {rest : List CmdWord} (hc : s.commands = w :: rest) :
    takeCommand s = execWord w { s with commands := rest } := by
  rw [takeCommand, hc]

/-- Outside a session and out of reset, a clock edge executes the word HOST offers first. -/
theorem step_eq_execWord {s : State} {w : CmdWord} {rest : List CmdWord} (h : InPhase s .none)
    (hc : s.commands = w :: rest) : step s = execWord w (commandTaken s) := by
  calc
    step s = blockStep { s with moves := s.moves.tail } := step_edge h.edge
    _ = takeCommand { s with moves := s.moves.tail } := blockStep_of_phase_none h.rst h.phase
    _ = execWord w { s with commands := rest, moves := s.moves.tail } := takeCommand_cons hc
    _ = execWord w (commandTaken s) := by rw [commandTaken, hc, List.tail_cons]

theorem execWord_of_illegal {w : CmdWord} {why : Illegal} (h : decode w = .illegal why) (s : State) :
    execWord w s = .next (answerIllegal s) := by
  rw [execWord, h]

/-! ### The answer to an illegal word (R103) -/

theorem onlyAnswered_respond (st : Status) (d : Byte) (s : State) : OnlyAnswered s (respond st d s) where
  ring := ⟨respond_capacity st d s, respond_length st d s, respond_front st d s, respond_back st d s,
    respond_storeBase st d s, respond_constructed st d s⟩
  receiver := ⟨respond_threshold st d s, respond_delim st d s, respond_rxState st d s, respond_fault st d s,
    respond_phase st d s⟩
  store := sameStore_of_fields (respond_store st d s) (respond_accesses st d s)
  record := ⟨respond_pushed st d s, respond_hostKept st d s⟩
  streams := ⟨respond_source st d s, respond_taken st d s, respond_sink st d s⟩
  environment := ⟨respond_cfg st d s, respond_rst st d s, respond_sinkReady st d s, respond_commands st d s,
    respond_moves st d s⟩

theorem answered_respond (st : Status) (d : Byte) (s : State) :
    Answered s (respond st d s) (responseWord st d) :=
  ⟨respond_responses st d s, respond_draws st d s⟩

theorem responseWord_illegalCommand : responseWord .illegalCommand 0x00#8 = 0xF000#16 := rfl

theorem answered_answerIllegal (s : State) : Answered s (answerIllegal s) 0xF000#16 :=
  responseWord_illegalCommand ▸ answered_respond .illegalCommand 0x00#8 s

theorem onlyAnswered_answerIllegal (s : State) : OnlyAnswered s (answerIllegal s) :=
  onlyAnswered_respond .illegalCommand 0x00#8 s

end Sys2Proof.Machine

namespace Sys2Proof.Proofs

open Sys2Proof Sys2Proof.Machine

/-- Settles O2: a legal word is the encoding of a command, which sets no must-be-zero bit and selects the row of its
mnemonic alone; and a word that a row selects is such an encoding. -/
theorem wordSelectsARowExactlyWhenItDecodesToIt : Obligations.WordSelectsARowExactlyWhenItDecodesToIt := by
  refine ⟨fun w _ _ hbit => ?mustBeZero, fun w r hr => selects_iff_decode hr w, ?masks⟩
  case mustBeZero =>
    obtain ⟨why, illegal⟩ := illegal_of_setsMustBeZero hbit
    exact ⟨⟨why, illegal⟩, fun r hr => selects_eq_false_of_illegal illegal hr⟩
  case masks => decide

/-- Settles O4: no encoding has a reserved opcode and each selects a row, so the words named are illegal; the step
that takes an illegal word is `answerIllegal`, which only answers. -/
theorem illegalWordIsAnsweredAndChangesNothing : Obligations.IllegalWordIsAnsweredAndChangesNothing := by
  refine ⟨fun w h => ?illegal, illegal_of_opField_reserved (by decide), illegal_of_opField_reserved (by decide),
    legal_or_illegal, fun s w rest why hp hc hd => ?answer⟩
  case illegal => exact h.elim illegal_of_opField_reserved illegal_of_not_wellFormedWord
  case answer =>
    exact ⟨_, (step_eq_execWord hp hc).trans (execWord_of_illegal hd _), answered_answerIllegal _,
      onlyAnswered_answerIllegal _⟩

end Sys2Proof.Proofs
end

section
/-! PROOFS. The family of `40_ringbuffer_ops.md`: the index arithmetic (R140) and the first check of a ring buffer
command (R130). -/

namespace Sys2Proof.Machine

open Sys2Proof

/-! ### Advance and retreat away from the ends of the region and at them (R140) -/

section IndexSteps

variable {c i : Byte}

theorem advance_toNat_of_succ_lt (h : i.toNat + 1 < c.toNat) : (advance c i).toNat = i.toNat + 1 := by
  rw [advance_toNat (Nat.zero_lt_of_lt h), Nat.mod_eq_of_lt h]

theorem advance_toNat_of_last (h : i.toNat + 1 = c.toNat) : (advance c i).toNat = 0 := by
  rw [advance_toNat (h ▸ Nat.succ_pos _), h, Nat.mod_self]

theorem retreat_toNat_of_pos (hi : i.toNat < c.toNat) (h : 0 < i.toNat) :
    (retreat c i).toNat = i.toNat - 1 := by
  rw [retreat_toNat (Nat.zero_lt_of_lt hi), Nat.sub_add_comm h, Nat.add_mod_right, Nat.mod_eq_of_lt (by omega)]

theorem retreat_toNat_of_first (hc : 0 < c.toNat) (h : i.toNat = 0) :
    (retreat c i).toNat = c.toNat - 1 := by
  rw [retreat_toNat hc, h, Nat.zero_add, Nat.mod_eq_of_lt (Nat.sub_one_lt_of_lt hc)]

/-! ### Advance and retreat undo each other (R140) -/

theorem advance_retreat (hi : i.toNat < c.toNat) : advance c (retreat c i) = i := by
  have hc : 0 < c.toNat := Nat.zero_lt_of_lt hi
  apply BitVec.eq_of_toNat_eq
  calc (advance c (retreat c i)).toNat
    _ = ((i.toNat + c.toNat - 1) % c.toNat + (0 + 1)) % c.toNat := by rw [advance_toNat hc, retreat_toNat hc]
    _ = i.toNat % c.toNat := retreated_mod hi 0
    _ = i.toNat := Nat.mod_eq_of_lt hi

theorem retreat_advance (hi : i.toNat < c.toNat) : retreat c (advance c i) = i := by
  have hc : 0 < c.toNat := Nat.zero_lt_of_lt hi
  apply BitVec.eq_of_toNat_eq
  calc (retreat c (advance c i)).toNat
    _ = ((i.toNat + 1) % c.toNat + c.toNat - 1) % c.toNat := by rw [retreat_toNat hc, advance_toNat hc]
    _ = i.toNat % c.toNat := retreat_back_mod hc Nat.one_pos
    _ = i.toNat := Nat.mod_eq_of_lt hi

end IndexSteps

/-- The only index below a capacity of 1 is 0. -/
theorem eq_zero_of_lt_capacity_one {c j : Byte} (hc : c.toNat = 1) (hj : j.toNat < c.toNat) : j = 0#8 :=
  BitVec.eq_of_toNat_eq (Nat.lt_one_iff.mp (hc ▸ hj))

/-! ### The answer `NotConstructed` (R130) -/

theorem onlyAnswered_respondAny8 (st : Status) (s : State) : OnlyAnswered s (respondAny8 st s) where
  ring := ⟨respondAny8_capacity st s, respondAny8_length st s, respondAny8_front st s, respondAny8_back st s,
    respondAny8_storeBase st s, respondAny8_constructed st s⟩
  receiver := ⟨respondAny8_threshold st s, respondAny8_delim st s, respondAny8_rxState st s,
    respondAny8_fault st s, respondAny8_phase st s⟩
  store := sameStore_of_fields (respondAny8_store st s) (respondAny8_accesses st s)
  record := ⟨respondAny8_pushed st s, respondAny8_hostKept st s⟩
  streams := ⟨respondAny8_source st s, respondAny8_taken st s, respondAny8_sink st s⟩
  environment := ⟨respondAny8_cfg st s, respondAny8_rst st s, respondAny8_sinkReady st s,
    respondAny8_commands st s, respondAny8_moves st s⟩

theorem responseWord_notConstructed (d : Byte) : responseWord .notConstructed d = 0x50#8 ++ d := rfl

theorem answered_respond_notConstructed (s : State) :
    Answered s (respond .notConstructed 0x00#8 s) 0x5000#16 :=
  answered_respond .notConstructed 0x00#8 s

theorem respondAny8_notConstructed_responses (s : State) :
    (respondAny8 .notConstructed s).responses = s.responses ++ [0x50#8 ++ Config.any8 s.draws] := by
  rw [respondAny8_responses, responseWord_notConstructed]

/-! ### The three checks where `CONSTRUCTED` is 0 (R219) -/

section NotConstructed

variable {s : State} (h : s.constructed = false)
include h

theorem pushChecked_of_not_constructed (place : State → State) :
    pushChecked place s = respond .notConstructed 0x00#8 s := if_pos h

theorem takeChecked_of_not_constructed (take : State → Byte × State) :
    takeChecked take s = respondAny8 .notConstructed s := if_pos h

theorem answerChecked_of_not_constructed (p : Bool) :
    answerChecked p s = respond .notConstructed 0x00#8 s := if_pos h

/-- A push or a predicate turned away. -/
theorem exec_push_or_predicate_of_not_constructed {d : Byte} {i : Instr}
    (hi : i ∈ [Instr.pushBack d, .pushFront d, .isFull, .isEmpty]) :
    exec i s = .next (respond .notConstructed 0x00#8 s) := by
  simp only [List.mem_cons, List.not_mem_nil, or_false] at hi
  rcases hi with rfl | rfl | rfl | rfl
  case inl | inr.inl => exact congrArg _ (pushChecked_of_not_constructed h _)
  case inr.inr.inl | inr.inr.inr => exact congrArg _ (answerChecked_of_not_constructed h _)

/-- A pop or a peek turned away. -/
theorem exec_pop_or_peek_of_not_constructed {i : Instr}
    (hi : i ∈ [Instr.popBack, .popFront, .peekFront, .peekBack]) :
    exec i s = .next (respondAny8 .notConstructed s) := by
  simp only [List.mem_cons, List.not_mem_nil, or_false] at hi
  rcases hi with rfl | rfl | rfl | rfl
  all_goals exact congrArg _ (takeChecked_of_not_constructed h _)

end NotConstructed

end Sys2Proof.Machine

namespace Sys2Proof.Proofs

open Sys2Proof Sys2Proof.Machine

/-- Settles O42: both steps by their values modulo the capacity; below a capacity of 1 there is only the index 0. -/
theorem indexStepsWrapAndInvert : Obligations.IndexStepsWrapAndInvert := by
  intro c i hc hi
  have advanceBelow : (advance c i).toNat < c.toNat := advance_lt hc i
  have retreatBelow : (retreat c i).toNat < c.toNat := retreat_lt hc i
  exact ⟨advance_toNat hc i, advance_toNat_of_succ_lt, advance_toNat_of_last,
    retreat_toNat hc i, retreat_toNat_of_pos hi, retreat_toNat_of_first hc,
    advance_retreat hi, retreat_advance hi,
    fun one => ⟨eq_zero_of_lt_capacity_one one advanceBelow, eq_zero_of_lt_capacity_one one retreatBelow⟩,
    advanceBelow, retreatBelow⟩

/-- Settles O34: the first check of every ring buffer command turns it away, pushes and predicates with data 0, pops
and peeks with a free value. -/
theorem notConstructedIsTestedFirst : Obligations.NotConstructedIsTestedFirst := by
  refine fun s d h => ⟨fun i hi => ?pushOrPredicate, fun i hi => ?popOrPeek⟩
  case pushOrPredicate =>
    exact ⟨_, exec_push_or_predicate_of_not_constructed h hi, answered_respond_notConstructed s,
      onlyAnswered_respond .notConstructed 0x00#8 s⟩
  case popOrPeek =>
    exact ⟨_, _, exec_pop_or_peek_of_not_constructed h hi, respondAny8_notConstructed_responses s,
      onlyAnswered_respondAny8 .notConstructed s⟩

end Sys2Proof.Proofs
end

section
/-! PROOFS. The family of `60_exceptions.md`: a failure changes nothing (R211 to R213), and the entry of a receive
fault (R215, R222). -/

namespace Sys2Proof.Machine

open Sys2Proof

/-! ### The errors of `CONSTRUCT` (R211, C1) -/

theorem exec_construct (store : Addr) (capacity : Byte) (s : State) :
    exec (.construct store capacity) s = execConstruct store capacity s := rfl

/-- `ZeroCapacity` is tested before the store is looked at (C1). -/
theorem exec_construct_of_zero_capacity (store : Addr) (s : State) :
    exec (.construct store 0#8) s = .next (respond .zeroCapacity 0x00#8 s) := by
  rw [exec_construct, execConstruct, if_pos rfl]

theorem exec_construct_of_null_store {capacity : Byte} (hc : capacity ≠ 0#8) (s : State) :
    exec (.construct 0x0000#16 capacity) s = .next (respond .nullBackingStore 0x00#8 s) := by
  rw [exec_construct, execConstruct, if_neg hc, if_pos rfl]

theorem answered_respond_zeroCapacity (s : State) : Answered s (respond .zeroCapacity 0x00#8 s) 0x2000#16 :=
  answered_respond .zeroCapacity 0x00#8 s

theorem answered_respond_nullBackingStore (s : State) :
    Answered s (respond .nullBackingStore 0x00#8 s) 0x1000#16 :=
  answered_respond .nullBackingStore 0x00#8 s

/-! ### `Full` and `Empty` (R212) -/

theorem answered_respond_full (s : State) : Answered s (respond .full 0x00#8 s) 0x3000#16 :=
  answered_respond .full 0x00#8 s

theorem responseWord_empty (d : Byte) : responseWord .empty d = 0x40#8 ++ d := rfl

theorem respondAny8_empty_responses (s : State) :
    (respondAny8 .empty s).responses = s.responses ++ [0x40#8 ++ Config.any8 s.draws] := by
  rw [respondAny8_responses, responseWord_empty]

section Constructed

variable {s : State} (h : s.constructed = true)
include h

theorem pushChecked_of_full (hl : s.length = s.capacity) (place : State → State) :
    pushChecked place s = respond .full 0x00#8 s :=
  (if_neg (ne_false_of_eq_true h)).trans (if_pos hl)

theorem takeChecked_of_empty (hl : s.length = 0#8) (take : State → Byte × State) :
    takeChecked take s = respondAny8 .empty s :=
  (if_neg (ne_false_of_eq_true h)).trans (if_pos hl)

/-- A push turned away by a full buffer. -/
theorem exec_push_of_full (hl : s.length = s.capacity) {d : Byte} {i : Instr}
    (hi : i ∈ [Instr.pushBack d, .pushFront d]) : exec i s = .next (respond .full 0x00#8 s) := by
  simp only [List.mem_cons, List.not_mem_nil, or_false] at hi
  rcases hi with rfl | rfl
  all_goals exact congrArg _ (pushChecked_of_full h hl _)

/-- A pop or a peek turned away by an empty buffer. -/
theorem exec_pop_or_peek_of_empty (hl : s.length = 0#8) {i : Instr}
    (hi : i ∈ [Instr.popBack, .popFront, .peekFront, .peekBack]) :
    exec i s = .next (respondAny8 .empty s) := by
  simp only [List.mem_cons, List.not_mem_nil, or_false] at hi
  rcases hi with rfl | rfl | rfl | rfl
  all_goals exact congrArg _ (takeChecked_of_empty h hl _)

end Constructed

/-! ### The cause mask of an item that faults the session (R184, R215) -/

/-- The cause an item faults the session with: its diagnostics, or, if it has none, `BF`. -/
def causeMask (it : SrcItem) : BitVec 4 :=
  if it.clean then 0b1000#4 else diagnosticMask it

theorem causeMask_of_clean {it : SrcItem} (h : it.clean = true) : causeMask it = 0b1000#4 := if_pos h

theorem causeMask_of_not_clean {it : SrcItem} (h : it.clean = false) : causeMask it = diagnosticMask it :=
  if_neg (ne_true_of_eq_false h)

/-- `receiveItem` where it does not push: a diagnostic wins over the full buffer. -/
theorem receiveItem_eq_raiseReceiveFault {it : SrcItem} {s : State}
    (h : it.clean = false ∨ s.length = s.capacity) :
    receiveItem it s = raiseReceiveFault (causeMask it) s := by
  rcases receiveItem_cases it s with ⟨hc, e⟩ | ⟨hc, _, e⟩ | ⟨hc, hl, _⟩ | ⟨hc, hl, _⟩
  · rw [e, causeMask_of_not_clean hc]
  · rw [e, causeMask_of_clean hc]
  all_goals exact absurd h (not_or.mpr ⟨ne_false_of_eq_true hc, hl⟩)

theorem SrcItem.clean_iff (it : SrcItem) :
    it.clean = true ↔ it.perr = false ∧ it.ferr = false ∧ it.oerr = false := by
  simp [SrcItem.clean, and_assoc]

/-- The diagnostics bit by bit, from bit 0 up: `PE`, `FE`, `OE`, and never `BF`. -/
theorem getLsbD_diagnosticMask (it : SrcItem) (i : Nat) :
    (diagnosticMask it).getLsbD i =
      if i = 0 then it.perr else if i = 1 then it.ferr else if i = 2 then it.oerr else false := by
  change BitVec.getLsbD (w := 1 + 1 + 1 + 1)
    (0b0#1 ++ BitVec.ofBool it.oerr ++ BitVec.ofBool it.ferr ++ BitVec.ofBool it.perr) i = _
  rw [BitVec.getLsbD_append, BitVec.getLsbD_append, BitVec.getLsbD_append]
  match i with
  | 0 | 1 | 2 | j + 3 => simp

/-- A cause mask bit by bit: the diagnostics, and `BF` exactly where there is none. -/
theorem getLsbD_causeMask (it : SrcItem) :
    (causeMask it).getLsbD 0 = it.perr ∧ (causeMask it).getLsbD 1 = it.ferr ∧
      (causeMask it).getLsbD 2 = it.oerr ∧ (causeMask it).getLsbD 3 = it.clean := by
  cases hc : it.clean with
  | true =>
    obtain ⟨hp, hf, ho⟩ := it.clean_iff.mp hc
    rw [causeMask_of_clean hc, hp, hf, ho]
    decide
  | false =>
    rw [causeMask_of_not_clean hc]
    exact ⟨getLsbD_diagnosticMask it 0, getLsbD_diagnosticMask it 1, getLsbD_diagnosticMask it 2,
      getLsbD_diagnosticMask it 3⟩

/-! ### The step that faults a session (R222) -/

/-- `s` once `SEQ_BYTE` has taken its item, dropped it and faulted the session with the cause `m`; `rest` is what
SOURCE still offers. -/
def sessionFault (m : BitVec 4) (rest : List SrcItem) (s : State) : State :=
  raiseReceiveFault m (srcTake rest { s with moves := s.moves.tail })

theorem blockStep_of_phase_byte {s : State} (hr : s.rst = false) (hp : s.phase = .byte) :
    blockStep s = .next (seqByte s) := by
  rw [blockStep, hr, hp]
  rfl

/-- In `PH_BYTE` a clock edge receives the item SOURCE offers first. -/
theorem step_eq_receiveItem {s : State} {it : SrcItem} {rest : List SrcItem} (h : InPhase s .byte)
    (hs : s.source = it :: rest) :
    step s = .next (receiveItem it (srcTake rest { s with moves := s.moves.tail })) := by
  calc
    step s = blockStep { s with moves := s.moves.tail } := step_edge h.edge
    _ = .next (seqByte { s with moves := s.moves.tail }) := blockStep_of_phase_byte h.rst h.phase
    _ = _ := congrArg _ (seqByte_cons hs)

theorem step_eq_sessionFault {s : State} {it : SrcItem} {rest : List SrcItem} (h : InPhase s .byte)
    (hs : s.source = it :: rest) (hf : it.clean = false ∨ s.length = s.capacity) :
    step s = .next (sessionFault (causeMask it) rest s) :=
  (step_eq_receiveItem h hs).trans (congrArg _ (receiveItem_eq_raiseReceiveFault hf))

theorem responseWord_receiveFault (m : BitVec 4) :
    responseWord .receiveFault (faultByte m) = 0x90#8 ++ (0#4 ++ m) := rfl

section SessionFault

variable (m : BitVec 4) (rest : List SrcItem) (s : State)

theorem sessionFault_fault : (sessionFault m rest s).fault = m := raiseReceiveFault_fault m _

theorem sessionFault_rxState : (sessionFault m rest s).rxState = .faulted := raiseReceiveFault_rxState m _

theorem sessionFault_phase : (sessionFault m rest s).phase = .none := raiseReceiveFault_phase m _

theorem sessionFault_sink : (sessionFault m rest s).sink = s.sink := raiseReceiveFault_sink m _

theorem answered_sessionFault :
    Answered s (sessionFault m rest s) (0x90#8 ++ (0#4 ++ (sessionFault m rest s).fault)) where
  responses := by
    rw [sessionFault_fault, ← responseWord_receiveFault]
    exact raiseReceiveFault_responses m _
  draws := raiseReceiveFault_draws m _

theorem sameRing_sessionFault : SameRing s (sessionFault m rest s) :=
  ⟨raiseReceiveFault_capacity m _, raiseReceiveFault_length m _, raiseReceiveFault_front m _,
    raiseReceiveFault_back m _, raiseReceiveFault_storeBase m _, raiseReceiveFault_constructed m _⟩

theorem sameStore_sessionFault : SameStore s (sessionFault m rest s) :=
  sameStore_of_fields (raiseReceiveFault_store m _) (raiseReceiveFault_accesses m _)

theorem sameRecord_sessionFault : SameRecord s (sessionFault m rest s) :=
  ⟨raiseReceiveFault_pushed m _, raiseReceiveFault_hostKept m _⟩

theorem sameEnvironment_sessionFault :
    SameEnvironment { s with moves := s.moves.tail } (sessionFault m rest s) :=
  ⟨raiseReceiveFault_cfg m _, raiseReceiveFault_rst m _, raiseReceiveFault_sinkReady m _,
    raiseReceiveFault_commands m _, raiseReceiveFault_moves m _⟩

end SessionFault

/-- Outside a session no item is taken and no byte offered to SINK (R92, R93). -/
theorem srcReady_of_phase_none {s : State} (h : s.phase = .none) : srcReady s = false := by
  simp [srcReady, h]

theorem snkValid_of_phase_none {s : State} (h : s.phase = .none) : snkValid s = false := by
  simp [snkValid, h]

/-! ### What a command answers, and what it does to `FAULT` -/

/-- A command only answers, or answers `Ok`, or starts a session, for which the answer is still owed. -/
theorem onlyAnswered_or_ok_or_silent_of_execDoes {i : Instr} {s t : State} (h : ExecDoes s i t) :
    OnlyAnswered s t ∨ AnsweredOk s t ∨ t.responses = s.responses := by
  cases h with
  | answers _ st d _ => exact .inl (onlyAnswered_respond st d s)
  | answersAny _ st _ _ => exact .inl (onlyAnswered_respondAny8 st s)
  | construct store capacity _ _ =>
    exact .inr (.inl (answeredOk_respond_ok (newQueue_responses store capacity s) _))
  | pushBack d _ _ => exact .inr (.inl (answeredOk_respond_ok (placeBack_responses d s) _))
  | pushFront d _ _ => exact .inr (.inl (answeredOk_respond_ok (placeFront_responses d s) _))
  | popBack _ _ => exact .inr (.inl (answeredOk_respond_ok (takeBack_responses s) _))
  | popFront _ _ => exact .inr (.inl (answeredOk_respond_ok (takeFront_responses s) _))
  | peekFront _ _ => exact .inr (.inl (answeredOk_respond_ok (lookFront_responses s) _))
  | peekBack _ _ => exact .inr (.inl (answeredOk_respond_ok (lookBack_responses s) _))
  | rxConfig _ _ => exact .inr (.inl (answeredOk_respond_ok rfl _))
  | rxStart _ _ _ => exact .inr (.inr (startSession_responses s))

/-- No command raises a fault: `RX_START` clears `FAULT`, the others keep it (R37). -/
theorem fault_of_execDoes {i : Instr} {s t : State} (h : ExecDoes s i t) : t.fault = s.fault ∨ t.fault = 0#4 := by
  cases h with
  | rxStart _ _ _ => exact .inr (startSession_fault s)
  | _ => exact .inl rfl

theorem envMove_responses (m : EnvMove) (s : State) : (envMove m s).responses = s.responses := by
  cases m <;> rfl

theorem envMove_fault (m : EnvMove) (s : State) : (envMove m s).fault = s.fault := by
  cases m <;> rfl

/-! ### What a step answers (R213) -/

/-- What a step from `s` answers: nothing; `Ok`; outside a session something else, with nothing done; or the fault
that ends a session. -/
inductive StepAnswers (s : State) : State → Prop
  | silent {t : State} (responses : t.responses = s.responses) : StepAnswers s t
  | ok {t : State} (answered : AnsweredOk s t) : StepAnswers s t
  | only {t : State} (phase : s.phase = .none) (onlyAnswered : OnlyAnswered (commandTaken s) t) : StepAnswers s t
  | faulted (m : BitVec 4) (rest : List SrcItem) (phase : s.phase = .byte) : StepAnswers s (sessionFault m rest s)

/-- An item faults the session, or it is pushed and the answer is still owed. -/
theorem stepAnswers_receiveItem {s : State} (it : SrcItem) (rest : List SrcItem) (hp : s.phase = .byte) :
    StepAnswers s (receiveItem it (srcTake rest { s with moves := s.moves.tail })) := by
  rcases receiveItem_cases it (srcTake rest { s with moves := s.moves.tail }) with
    ⟨_, e⟩ | ⟨_, _, e⟩ | ⟨_, _, _, e⟩ | ⟨_, _, _, e⟩ <;> rw [e]
  · exact .faulted _ rest hp
  · exact .faulted _ rest hp
  · exact .silent (placeBack_responses it.data _)
  · exact .silent (placeBack_responses it.data _)

theorem stepAnswers_of_stepDoes {s t : State} (h : StepDoes s t) : StepAnswers s t := by
  cases h with
  | environment m rest _ _ _ => exact .silent (envMove_responses m _)
  | reset _ _ => exact .silent (resetBlock_responses _)
  | wait _ _ _ => exact .silent rfl
  | illegal w rest why hp _ _ => exact .only hp.phase (onlyAnswered_answerIllegal _)
  | command i _ hp _ he =>
    rcases onlyAnswered_or_ok_or_silent_of_execDoes (exec_does he) with only | ok | silent
    · exact .only hp.phase only
    · exact .ok ok
    · exact .silent silent
  | resume _ _ => exact .silent rfl
  | byte it rest hp _ => exact stepAnswers_receiveItem it rest hp.phase
  | pause _ _ => exact .ok (answeredOk_respond_ok rfl _)

theorem statusOf_okWord (d : Byte) : statusOf (okWord d) = 0x0#4 := by
  rw [← responseWord_ok, statusOf_responseWord, statusCode]

theorem not_answeredOk_of_statusOf {s t : State} {r : RspWord} (hr : t.responses = s.responses ++ [r])
    (hst : statusOf r ≠ 0x0#4) : ¬ AnsweredOk s t := by
  rintro ⟨d, hd⟩
  have hword : r = okWord d := List.singleton_inj.mp (List.append_cancel_left (hr.symm.trans hd))
  exact hst (hword ▸ statusOf_okWord d)

end Sys2Proof.Machine

namespace Sys2Proof.Proofs

open Sys2Proof Sys2Proof.Machine

/-- Settles O33: the two tests of `CONSTRUCT`, capacity first; both answer and do nothing else. -/
theorem constructErrorsAreReportedInOrder : Obligations.ConstructErrorsAreReportedInOrder := by
  refine ⟨fun store s => ?zeroCapacity, fun capacity s hc => ?nullStore⟩
  case zeroCapacity =>
    exact ⟨_, exec_construct_of_zero_capacity store s, answered_respond_zeroCapacity s,
      onlyAnswered_respond .zeroCapacity 0x00#8 s⟩
  case nullStore =>
    exact ⟨_, exec_construct_of_null_store hc s, answered_respond_nullBackingStore s,
      onlyAnswered_respond .nullBackingStore 0x00#8 s⟩

/-- Settles O35: the second check of a push, a pop and a peek, behind `NotConstructed`; the data of `Empty` is a free
value. -/
theorem fullAndEmptyChangeNothing : Obligations.FullAndEmptyChangeNothing := by
  refine ⟨fun s d h hl i hi => ?full, fun s h hl i hi => ?empty⟩
  case full =>
    exact ⟨_, exec_push_of_full h hl hi, answered_respond_full s, onlyAnswered_respond .full 0x00#8 s⟩
  case empty =>
    exact ⟨_, _, exec_pop_or_peek_of_empty h hl hi, respondAny8_empty_responses s,
      onlyAnswered_respondAny8 .empty s⟩

/-- Settles O22: of the things a step can answer, only those without effect and the fault that ends a session have a
status other than `Ok`. -/
theorem failureHasNoSideEffects : Obligations.FailureHasNoSideEffects := by
  intro s t r h hr hst
  cases stepAnswers_of_stepDoes (step_does h) with
  | silent responses => simp [responses] at hr
  | ok answered => exact absurd answered (not_answeredOk_of_statusOf hr hst)
  | only phase onlyAnswered => exact .inl ⟨phase, onlyAnswered⟩
  | faulted m rest phase =>
    have word : r = 0x90#8 ++ (0#4 ++ (sessionFault m rest s).fault) :=
      List.singleton_inj.mp
        (List.append_cancel_left (hr.symm.trans (answered_sessionFault m rest s).responses))
    have status : statusOf r = 0x9#4 := by
      rw [word, ← responseWord_receiveFault, statusOf_responseWord, statusCode]
    exact .inr ⟨phase, status, sessionFault_rxState m rest s, word, sameRing_sessionFault m rest s,
      sameStore_sessionFault m rest s, sessionFault_sink m rest s⟩

/-- Settles O53: `SEQ_BYTE` with such an item is `sessionFault`, whose cause has a bit for each diagnostic; every other
step keeps `FAULT` or clears it, and in `PH_BYTE` the receiver is Receiving (INV8). -/
theorem receiveFaultEntry : Obligations.ReceiveFaultEntry := by
  refine ⟨fun s it rest hp hs hf => ⟨_, step_eq_sessionFault hp hs hf, ?entry⟩,
    fun s t hco h changed raised => ?onlyHere⟩
  case entry =>
    obtain ⟨pe, fe, oe, bf⟩ := getLsbD_causeMask it
    have phase := sessionFault_phase (causeMask it) rest s
    rw [← sessionFault_fault (causeMask it) rest s] at pe fe oe bf
    exact ⟨pe, fe, oe, bf, rxFaultWire_eq _, sessionFault_rxState _ rest s, phase, answered_sessionFault _ rest s,
      raiseReceiveFault_source _ _, raiseReceiveFault_taken _ _, sessionFault_sink _ rest s,
      raiseReceiveFault_threshold _ _, raiseReceiveFault_delim _ _, sameRing_sessionFault _ rest s,
      sameStore_sessionFault _ rest s, sameRecord_sessionFault _ rest s,
      (cmdReady_iff _).mpr ⟨phase, (raiseReceiveFault_rst _ _).trans hp.rst⟩, srcReady_of_phase_none phase,
      snkValid_of_phase_none phase, sameEnvironment_sessionFault _ rest s⟩
  case onlyHere =>
    cases step_does h with
    | byte it rest hp _ => exact ⟨hp, hco.inv8.mp (by simp [hp.phase])⟩
    | environment m rest _ _ _ => exact absurd (envMove_fault m _) changed
    | reset _ _ => exact absurd (resetBlock_fault _) raised
    | command i _ _ _ he => exact ((fault_of_execDoes (exec_does he)).elim changed raised).elim
    | wait _ _ _ | illegal _ _ _ _ _ _ | resume _ _ | pause _ _ => exact absurd rfl changed

end Sys2Proof.Proofs
end

section
/-! PROOFS. The family of `70_reset_and_hazards.md`: what reset does not touch (R241). -/

namespace Sys2Proof.Machine

/-- Reset takes or drops no source item, and the bytes handed to SINK stay handed (R241). -/
theorem sameStreams_resetBlock (s : State) : SameStreams s (resetBlock s) :=
  ⟨resetBlock_source s, resetBlock_taken s, resetBlock_sink s⟩

end Sys2Proof.Machine

namespace Sys2Proof.Proofs

open Sys2Proof Sys2Proof.Machine

/-- Settles O13: the step is `resetBlock` once the clock edge is spent; it keeps STORE, the streams and the parameters,
and clears `CONSTRUCTED` and `LENGTH`, so that no queue is left. -/
theorem resetLeavesWhatIsOutsideTheBlock : Obligations.ResetLeavesWhatIsOutsideTheBlock := by
  refine fun s he hr => ⟨_, step_of_rst he hr, ?store, ?constructed, ?queue, ?streams, ?cfg⟩
  case store => exact resetBlock_store _
  case constructed => exact resetBlock_constructed _
  case queue => exact (queue_eq_nil _).mpr (resetBlock_length _)
  case streams =>
    obtain ⟨source, taken, sink⟩ := sameStreams_resetBlock { s with moves := s.moves.tail }
    exact ⟨source, taken, sink⟩
  case cfg => exact resetBlock_cfg _

end Sys2Proof.Proofs
end

section
/-! PROOFS. The text of a command (`30_encoding.md` R107): the hexadecimal form of an operand reads back, so the line
of a command assembles to its word. -/

namespace Sys2Proof.Machine

open Sys2Proof

/-! ### Hexadecimal digits and numbers -/

theorem hexDigit?_hexChar {d : Nat} (h : d < 16) : hexDigit? (hexChar d) = some d := by
  revert d
  decide

/-- No hexadecimal digit follows: a number ends here. -/
def EndsNumber (rest : List Char) : Prop := ∀ n, digitsFrom hexDigit? 16 n rest = (n, rest)

theorem endsNumber_nil : EndsNumber [] := fun _ => rfl

theorem endsNumber_comma (cs : List Char) : EndsNumber (',' :: cs) := fun _ => rfl

theorem digitsFrom_hexChar {d : Nat} (h : d < 16) (acc : Nat) (cs : List Char) :
    digitsFrom hexDigit? 16 acc (hexChar d :: cs) = digitsFrom hexDigit? 16 (acc * 16 + d) cs := by
  rw [digitsFrom, hexDigit?_hexChar h]

theorem number?_hexChar {d : Nat} (h : d < 16) (cs : List Char) :
    number? ('0' :: 'x' :: hexChar d :: cs) = some (digitsFrom hexDigit? 16 d cs) := by
  change digits? hexDigit? 16 (hexChar d :: cs) = _
  rw [digits?, hexDigit?_hexChar h]

theorem number?_renderByte (b : Byte) {rest : List Char} (hr : EndsNumber rest) :
    number? (renderByte b ++ rest) = some (b.toNat, rest) := by
  have hb := b.isLt
  change number? ('0' :: 'x' :: hexChar (b.toNat / 16) :: hexChar (b.toNat % 16) :: rest) = _
  rw [number?_hexChar (by omega), digitsFrom_hexChar (by omega), hr]
  congr 2
  omega

theorem number?_renderAddr (a : Addr) {rest : List Char} (hr : EndsNumber rest) :
    number? (renderAddr a ++ rest) = some (a.toNat, rest) := by
  have ha := a.isLt
  change number? ('0' :: 'x' :: hexChar (a.toNat / 4096) :: hexChar (a.toNat / 256 % 16) ::
    hexChar (a.toNat / 16 % 16) :: hexChar (a.toNat % 16) :: rest) = _
  rw [number?_hexChar (by omega), digitsFrom_hexChar (by omega), digitsFrom_hexChar (by omega),
    digitsFrom_hexChar (by omega), hr]
  congr 2
  omega

/-- A number of `n` bits fits an operand field of `n` bits (R101). -/
theorem operand?_of_number? {n : Nat} {v : BitVec n} {cs rest : List Char}
    (h : number? cs = some (v.toNat, rest)) : operand? n cs = some (v, rest) := by
  rw [operand?, h]
  simp [v.isLt]

theorem operand?_renderByte (b : Byte) {rest : List Char} (hr : EndsNumber rest) :
    operand? 8 (renderByte b ++ rest) = some (b, rest) :=
  operand?_of_number? (number?_renderByte b hr)

theorem operand?_renderAddr (a : Addr) {rest : List Char} (hr : EndsNumber rest) :
    operand? 16 (renderAddr a ++ rest) = some (a, rest) :=
  operand?_of_number? (number?_renderAddr a hr)

/-- A hexadecimal number begins with no capital letter, so it is no register name. -/
theorem register?_renderByte (b : Byte) {rest : List Char} (hr : EndsNumber rest) :
    register? (renderByte b ++ rest) = some (b, rest) :=
  operand?_renderByte b hr

/-! ### The operands of a line -/

theorem oneOperand_of_parse {α : Type} {parse : List Char → Option (α × List Char)} {mk : α → Instr}
    {cs : List Char} {v : α} (h : parse cs = some (v, [])) : oneOperand parse mk (' ' :: cs) = some (mk v) := by
  simp [oneOperand, h, lineEnds]

theorem twoOperands_of_parse {α β : Type} {parse₁ : List Char → Option (α × List Char)}
    {parse₂ : List Char → Option (β × List Char)} {mk : α → β → Instr} {cs cs' : List Char} {v : α} {v' : β}
    (h : parse₁ cs = some (v, ',' :: ' ' :: cs')) (h' : parse₂ cs' = some (v', [])) :
    twoOperands parse₁ parse₂ mk (' ' :: cs) = some (mk v v') := by
  rw [twoOperands, h]
  exact oneOperand_of_parse h'

theorem oneOperand_renderByte (mk : Byte → Instr) (b : Byte) :
    oneOperand (operand? 8) mk (' ' :: renderByte b) = some (mk b) :=
  oneOperand_of_parse (operand?_renderByte b endsNumber_nil)

/-! ### The whole line: the mnemonic ends at the first space, and selects the command (R107) -/

theorem mnemonic_nameChar (i : Instr) : i.mnemonic.toList.all nameChar = true := by
  cases i <;> simp [Instr.mnemonic, nameChar]

theorem takeWhile_mnemonic (i : Instr) (cs : List Char) :
    (i.mnemonic.toList ++ ' ' :: cs).takeWhile nameChar = i.mnemonic.toList := by
  rw [List.takeWhile_append_of_pos (List.all_eq_true.mp (mnemonic_nameChar i))]
  exact List.append_nil _

theorem dropWhile_mnemonic (i : Instr) (cs : List Char) :
    (i.mnemonic.toList ++ ' ' :: cs).dropWhile nameChar = ' ' :: cs := by
  rw [List.dropWhile_append_of_pos (List.all_eq_true.mp (mnemonic_nameChar i))]
  rfl

/-- How the operands behind a space are read, for each command that has some. -/
def parseOperands : Instr → List Char → Option Instr
  | .construct _ _ => twoOperands (operand? 16) (operand? 8) .construct
  | .pushBack _ => oneOperand (operand? 8) .pushBack
  | .pushFront _ => oneOperand (operand? 8) .pushFront
  | .rxConfig _ _ => twoOperands (operand? 8) (operand? 8) .rxConfig
  | .rdreg _ => oneOperand register? .rdreg
  | i => noOperand i

theorem parseLine_mnemonic (i : Instr) (cs : List Char) :
    parseLine (i.mnemonic.toList ++ ' ' :: cs) = parseOperands i (' ' :: cs) := by
  rw [parseLine, takeWhile_mnemonic, dropWhile_mnemonic]
  cases i <;> simp [Instr.mnemonic, parseOperands]

/-- One case for each shape of the operands; where there are none, the line is a fixed text. -/
theorem parseLine_render (i : Instr) : parseLine (render i) = some i := by
  cases i with
  | construct store capacity =>
    exact (parseLine_mnemonic (.construct store capacity) _).trans
      (twoOperands_of_parse (operand?_renderAddr store (endsNumber_comma _))
        (operand?_renderByte capacity endsNumber_nil))
  | pushBack data => exact (parseLine_mnemonic (.pushBack data) _).trans (oneOperand_renderByte .pushBack data)
  | pushFront data => exact (parseLine_mnemonic (.pushFront data) _).trans (oneOperand_renderByte .pushFront data)
  | rxConfig threshold delimiter =>
    exact (parseLine_mnemonic (.rxConfig threshold delimiter) _).trans
      (twoOperands_of_parse (operand?_renderByte threshold (endsNumber_comma _))
        (operand?_renderByte delimiter endsNumber_nil))
  | rdreg n =>
    exact (parseLine_mnemonic (.rdreg n) _).trans (oneOperand_of_parse (register?_renderByte n endsNumber_nil))
  | popBack | popFront | isFull | isEmpty | peekFront | peekBack | rxStart => decide

theorem assemble_render (i : Instr) : assemble (render i) = some (encode i) := by
  rw [assemble, parseLine_render, Option.map_some]

end Sys2Proof.Machine

namespace Sys2Proof.Proofs

open Sys2Proof Sys2Proof.Machine

/-- Settles O1: `decode_encode`, and `encode_of_decode`, which keeps every bit of a legal word. -/
theorem decodeAndEncodeAgree : Obligations.DecodeAndEncodeAgree :=
  ⟨decode_encode, fun _ _ => encode_of_decode⟩

/-- Settles O3: each printed word is the encoding of its command, which decodes back. -/
theorem printedWordsDecode : Obligations.PrintedWordsDecode :=
  ⟨decode_encode (.construct 0x0100#16 64#8), decode_encode (.pushBack 42#8), decode_encode (.pushFront 10#8),
    decode_encode .popBack, decode_encode .popFront, decode_encode (.rxConfig 32#8 0x0A#8),
    decode_encode (.rdreg 0x0C#8)⟩

/-- Settles O5: the parser reads back the rendered line, operand by operand. -/
theorem assemblerReadsTheTextOfEveryCommand : Obligations.AssemblerReadsTheTextOfEveryCommand :=
  assemble_render

/-- Settles O6: six fixed lines, each assembled by evaluation. -/
theorem assemblerReadsThePrintedExamples : Obligations.AssemblerReadsThePrintedExamples := by
  refine ⟨?construct, ?pushBack, ?rxConfig, ?popFront, ?registerName, ?tooWide⟩
  all_goals decide

end Sys2Proof.Proofs
end

section
/-! PROOFS. The invariants of `10_state.md` R35: each thing a command or a step can do keeps them. -/

namespace Sys2Proof.Machine

open Sys2Proof

/-! ### What touches no register, no STORE byte and no record -/

/-- Only the registers, STORE and the records count: an answer keeps the invariants. -/
theorem coherent_respond {s : State} (h : Coherent s) (st : Status) (d : Byte) : Coherent (respond st d s) := by
  obtain ⟨ring, receiver, _, record, _, _⟩ := onlyAnswered_respond st d s
  exact h.of_same ring receiver record (respond_store st d s)

theorem coherent_respondAny8 {s : State} (h : Coherent s) (st : Status) : Coherent (respondAny8 st s) := by
  obtain ⟨ring, receiver, _, record, _, _⟩ := onlyAnswered_respondAny8 st s
  exact h.of_same ring receiver record (respondAny8_store st s)

theorem coherent_lookFront {s : State} (h : Coherent s) : Coherent (lookFront s).2 :=
  h.of_same ⟨rfl, rfl, rfl, rfl, rfl, rfl⟩ ⟨rfl, rfl, rfl, rfl, rfl⟩ ⟨rfl, rfl⟩ (lookFront_store s)

theorem coherent_lookBack {s : State} (h : Coherent s) : Coherent (lookBack s).2 :=
  h.of_same ⟨rfl, rfl, rfl, rfl, rfl, rfl⟩ ⟨rfl, rfl, rfl, rfl, rfl⟩ ⟨rfl, rfl⟩ (lookBack_store s)

theorem coherent_snkWrite {s : State} (h : Coherent s) (b : Byte) : Coherent (snkWrite b s) :=
  h.of_same ⟨rfl, rfl, rfl, rfl, rfl, rfl⟩ ⟨rfl, rfl, rfl, rfl, rfl⟩ ⟨rfl, rfl⟩ (snkWrite_store b s)

theorem coherent_srcTake {s : State} (h : Coherent s) (rest : List SrcItem) : Coherent (srcTake rest s) :=
  h.of_same ⟨rfl, rfl, rfl, rfl, rfl, rfl⟩ ⟨rfl, rfl, rfl, rfl, rfl⟩ ⟨rfl, rfl⟩ (srcTake_store rest s)

theorem coherent_commandTaken {s : State} (h : Coherent s) : Coherent (commandTaken s) :=
  h.of_same ⟨rfl, rfl, rfl, rfl, rfl, rfl⟩ ⟨rfl, rfl, rfl, rfl, rfl⟩ ⟨rfl, rfl⟩ (commandTaken_store s)

theorem coherent_withMoves {s : State} (h : Coherent s) (moves : List EnvMove) : Coherent { s with moves := moves } :=
  h.of_same ⟨rfl, rfl, rfl, rfl, rfl, rfl⟩ ⟨rfl, rfl, rfl, rfl, rfl⟩ ⟨rfl, rfl⟩ rfl

theorem coherent_envMove {s : State} (h : Coherent s) (m : EnvMove) : Coherent (envMove m s) := by
  cases m with
  | hostWrite a v => exact h.hostWrite a v
  | clock | setRst _ | setSinkReady _ | offerCommand _ | offerItem _ =>
    exact h.of_same ⟨rfl, rfl, rfl, rfl, rfl, rfl⟩ ⟨rfl, rfl, rfl, rfl, rfl⟩ ⟨rfl, rfl⟩ rfl

/-! ### What moves the receiver's registers -/

/-- The ring buffer's part of the invariants (INV1 to INV6) and the canonical form do not look at the receiver. -/
theorem Coherent.of_sameRing {s t : State} (h : Coherent s) (hr : SameRing s t) (hp : SameRecord s t)
    (hs : t.store = s.store) (inv7 : t.fault ≠ 0#4 ↔ t.rxState = .faulted)
    (inv8 : t.phase ≠ .none ↔ t.rxState = .receiving)
    (inv9 : t.rxState = .receiving →
      s.constructed = true ∧ 0 < t.threshold.toNat ∧ t.threshold.toNat ≤ s.capacity.toNat)
    (inv10 : t.fault.getLsbD 3 = true → t.fault.extractLsb' 0 3 = 0#3) : Coherent t := by
  obtain ⟨capacity, length, front, back, storeBase, constructed⟩ := hr
  obtain ⟨pushed, hostKept⟩ := hp
  have slots : ∀ k, liveSlot t k = liveSlot s k := fun k => by simp only [liveSlot, capacity, front, storeBase]
  constructor
  case inv5 =>
    intro hc
    obtain ⟨written, isPushed, kept⟩ := h.inv5 (constructed ▸ hc)
    constructor <;> simpa only [slots, length, hs, pushed, hostKept]
  case inv1 => simpa only [capacity, storeBase, constructed] using h.inv1
  case inv2 => simpa only [capacity, length, constructed] using h.inv2
  case inv3 => simpa only [capacity, front, back, constructed] using h.inv3
  case inv4 => simpa only [capacity, length, front, back, constructed] using h.inv4
  case inv6 => simpa only [capacity, length, front, back, storeBase, constructed] using h.inv6
  case inv9 => simpa only [capacity, constructed] using inv9
  case storeWf => exact hs ▸ h.storeWf
  case pushedWf => exact pushed ▸ h.pushedWf
  all_goals assumption

theorem Coherent.not_receiving_of_phase_none {s : State} (h : Coherent s) (hp : s.phase = .none) :
    s.rxState ≠ .receiving :=
  fun hx => h.inv8.mpr hx hp

theorem Coherent.receiving_of_phase {s : State} (h : Coherent s) {p : Phase} (hp : s.phase = p)
    (hne : p ≠ .none) : s.rxState = .receiving :=
  h.inv8.mp (hp ▸ hne)

/-- In a session there is no fault (INV7). -/
theorem Coherent.fault_of_receiving {s : State} (h : Coherent s) (hr : s.rxState = .receiving) : s.fault = 0#4 := by
  by_contra hf
  cases (h.inv7.mp hf).symm.trans hr

/-- Outside a session `RX_CONFIG` may load any threshold: INV9 speaks of a session only. -/
theorem coherent_rxConfig {s : State} (h : Coherent s) (hp : s.phase = .none) (threshold delim : Byte) :
    Coherent { s with threshold := threshold, delim := delim } :=
  h.of_sameRing ⟨rfl, rfl, rfl, rfl, rfl, rfl⟩ ⟨rfl, rfl⟩ rfl h.inv7 h.inv8
    (fun hx => absurd hx (h.not_receiving_of_phase_none hp)) h.inv10

theorem coherent_startSession {s : State} (h : Coherent s) (hc : s.constructed = true)
    (ht : ¬(s.threshold = 0#8 ∨ s.capacity.toNat < s.threshold.toNat)) : Coherent (startSession s) := by
  obtain ⟨nonzero, le⟩ := not_or.mp ht
  exact h.of_sameRing ⟨rfl, rfl, rfl, rfl, rfl, rfl⟩ ⟨rfl, rfl⟩ rfl (by simp) (by simp)
    (fun _ => ⟨hc, byte_pos_of_ne nonzero, Nat.le_of_not_lt le⟩) (by simp)

/-- A step of the sequencer to another phase of the session. -/
theorem coherent_withPhase {s : State} (h : Coherent s) (hr : s.rxState = .receiving) {p : Phase} (hp : p ≠ .none) :
    Coherent { s with phase := p } :=
  h.of_sameRing ⟨rfl, rfl, rfl, rfl, rfl, rfl⟩ ⟨rfl, rfl⟩ rfl h.inv7 ⟨fun _ => hr, fun _ => hp⟩ h.inv9 h.inv10

/-- The end of a session that completes. -/
theorem coherent_completed {s : State} (h : Coherent s) (hr : s.rxState = .receiving) :
    Coherent { s with rxState := .completed, phase := .none } :=
  h.of_sameRing ⟨rfl, rfl, rfl, rfl, rfl, rfl⟩ ⟨rfl, rfl⟩ rfl (by simp [h.fault_of_receiving hr]) (by simp) (by simp)
    h.inv10

/-! ### Commands -/

/-- Outside a session every command keeps the invariants. -/
theorem coherent_of_execDoes {i : Instr} {s t : State} (h : Coherent s) (hp : s.phase = .none)
    (hd : ExecDoes s i t) : Coherent t := by
  cases hd with
  | answers _ st d _ => exact coherent_respond h st d
  | answersAny _ st _ _ => exact coherent_respondAny8 h st
  | construct store capacity hs hc =>
    exact coherent_respond (h.newQueue (h.not_receiving_of_phase_none hp) hs hc) _ _
  | pushBack d hc hl => exact coherent_respond (h.placeBack hc hl d) _ _
  | pushFront d hc hl => exact coherent_respond (h.placeFront hc hl d) _ _
  | popBack hc hl => exact coherent_respond (h.takeBack hc hl) _ _
  | popFront hc hl => exact coherent_respond (h.takeFront hc hl) _ _
  | peekFront _ _ => exact coherent_respond (coherent_lookFront h) _ _
  | peekBack _ _ => exact coherent_respond (coherent_lookBack h) _ _
  | rxConfig threshold delimiter => exact coherent_respond (coherent_rxConfig h hp threshold delimiter) _ _
  | rxStart hc _ ht => exact coherent_startSession h hc ht

/-! ### The item taken by `SEQ_BYTE` -/

theorem coherent_receiveItem {s : State} (h : Coherent s) (hr : s.rxState = .receiving) (it : SrcItem) :
    Coherent (receiveItem it s) := by
  obtain ⟨hc, _, _⟩ := h.inv9 hr
  rcases receiveItem_cases it s with ⟨dirty, e⟩ | ⟨_, _, e⟩ | ⟨_, hl, _, e⟩ | ⟨_, hl, _, e⟩ <;> rw [e]
  · exact h.raiseReceiveFault (diagnosticMask_ne_zero dirty)
      fun h3 => absurd h3 (ne_true_of_eq_false (diagnosticMask_no_bufferFull it))
  · exact h.raiseReceiveFault (by decide) fun _ => by decide
  · exact coherent_withPhase (h.placeBack hc hl it.data) hr (by decide)
  · exact h.placeBack hc hl it.data

/-! ### Every step -/

theorem coherent_of_stepDoes {s t : State} (h : Coherent s) (hd : StepDoes s t) : Coherent t := by
  have spent : Coherent { s with moves := s.moves.tail } := coherent_withMoves h _
  cases hd with
  | environment m rest _ _ _ => exact coherent_envMove (coherent_withMoves h rest) m
  | reset _ _ => exact spent.resetBlock
  | wait _ _ _ => exact spent
  | illegal _ _ _ _ _ _ => exact coherent_respond (coherent_commandTaken h) _ _
  | command i _ hp _ he => exact coherent_of_execDoes (coherent_commandTaken h) hp.phase (exec_does he)
  | resume hp _ =>
    exact coherent_withPhase (coherent_snkWrite spent _) (h.receiving_of_phase hp.phase (by decide)) (by decide)
  | byte it rest hp _ =>
    exact coherent_receiveItem (coherent_srcTake spent rest) (h.receiving_of_phase hp.phase (by decide)) it
  | pause hp _ =>
    exact coherent_respond
      (coherent_completed (coherent_snkWrite spent _) (h.receiving_of_phase hp.phase (by decide))) _ _

/-! ### Reset -/

/-- Where every register has its reset value and nothing is recorded, the invariants hold, whatever STORE holds. -/
theorem coherent_of_resetValues {t : State} (ring : SameRing State.reset t) (receiver : SameReceiver State.reset t)
    (pushed : t.pushed = []) (storeWf : Memory.wf t.store = true) : Coherent t := by
  obtain ⟨capacity, length, front, back, storeBase, constructed⟩ := ring
  obtain ⟨_, _, rxState, fault, phase⟩ := receiver
  have notConstructed : ¬ t.constructed = true := ne_true_of_eq_false constructed
  have notReceiving : t.rxState ≠ .receiving := by rw [rxState]; decide
  exact {
    inv1 := fun hc => absurd hc notConstructed
    inv2 := fun hc => absurd hc notConstructed
    inv3 := fun hc => absurd hc notConstructed
    inv4 := fun hc => absurd hc notConstructed
    inv5 := fun hc => absurd hc notConstructed
    inv6 := fun _ => ⟨capacity, length, front, back, storeBase⟩
    inv7 := by rw [fault, rxState]; decide
    inv8 := by rw [phase, rxState]; decide
    inv9 := fun hx => absurd hx notReceiving
    inv10 := by rw [fault]; decide
    storeWf := storeWf
    pushedWf := by rw [pushed]; rfl }

end Sys2Proof.Machine

namespace Sys2Proof.Proofs

open Sys2Proof Sys2Proof.Machine

/-- Settles O16: by cases on what a step can do. -/
theorem everyStepKeepsTheInvariant : Obligations.EveryStepKeepsTheInvariant :=
  fun _ _ h hs => coherent_of_stepDoes h (step_does hs)

/-- Settles O15: the environment's fields play no part. -/
theorem invariantHoldsAfterReset : Obligations.InvariantHoldsAfterReset :=
  fun _ _ _ _ _ _ => coherent_of_resetValues ⟨rfl, rfl, rfl, rfl, rfl, rfl⟩ ⟨rfl, rfl, rfl, rfl, rfl⟩ rfl rfl

end Sys2Proof.Proofs
end

section
/-! PROOFS. What one step does to each part of the state (`00_scope.md` R9, R10, `30_encoding.md` section 1): the
schedule, the traces and the offers, for the environment, a command and each step of the sequencer. -/

namespace Sys2Proof.Machine

open Sys2Proof

/-! ### The environment's moves (R9) -/

theorem step_of_move {s : State} {m : EnvMove} {rest : List EnvMove} (hm : s.moves = m :: rest) (hc : m ≠ .clock) :
    step s = .next (envMove m { s with moves := rest }) := by
  unfold step machineStep
  rw [hm]
  cases m with
  | clock => exact absurd rfl hc
  | _ => rfl

theorem clockEdge_of_move {s : State} {m : EnvMove} {rest : List EnvMove} (hm : s.moves = m :: rest)
    (hc : m ≠ .clock) : clockEdge s = false := by
  unfold clockEdge
  rw [hm]
  cases m with
  | clock => exact absurd rfl hc
  | _ => rfl

theorem sameRing_envMove (m : EnvMove) (s : State) : SameRing s (envMove m s) := by
  cases m <;> exact ⟨rfl, rfl, rfl, rfl, rfl, rfl⟩

theorem sameReceiver_envMove (m : EnvMove) (s : State) : SameReceiver s (envMove m s) := by
  cases m <;> exact ⟨rfl, rfl, rfl, rfl, rfl⟩

theorem envMove_cfg (m : EnvMove) (s : State) : (envMove m s).cfg = s.cfg := by cases m <;> rfl

theorem envMove_moves (m : EnvMove) (s : State) : (envMove m s).moves = s.moves := by cases m <;> rfl

theorem envMove_sink (m : EnvMove) (s : State) : (envMove m s).sink = s.sink := by cases m <;> rfl

theorem envMove_taken (m : EnvMove) (s : State) : (envMove m s).taken = s.taken := by cases m <;> rfl

theorem envMove_accesses (m : EnvMove) (s : State) : (envMove m s).accesses = s.accesses := by cases m <;> rfl

theorem envMove_draws (m : EnvMove) (s : State) : (envMove m s).draws = s.draws := by cases m <;> rfl

theorem envMove_pushed (m : EnvMove) (s : State) : (envMove m s).pushed = s.pushed := by cases m <;> rfl

theorem envMove_rst (m : EnvMove) (s : State) :
    (envMove m s).rst = match m with | .setRst b => b | _ => s.rst := by cases m <;> rfl

theorem envMove_sinkReady (m : EnvMove) (s : State) :
    (envMove m s).sinkReady = match m with | .setSinkReady b => b | _ => s.sinkReady := by cases m <;> rfl

theorem envMove_commands (m : EnvMove) (s : State) :
    (envMove m s).commands = match m with | .offerCommand w => s.commands ++ [w] | _ => s.commands := by
  cases m <;> rfl

theorem envMove_source (m : EnvMove) (s : State) :
    (envMove m s).source = match m with | .offerItem it => s.source ++ [it] | _ => s.source := by cases m <;> rfl

/-- Offers are only ever added behind the others (R91). -/
theorem envMove_commands_append (m : EnvMove) (s : State) : ∃ more, (envMove m s).commands = s.commands ++ more := by
  cases m with
  | offerCommand w => exact ⟨[w], rfl⟩
  | _ => exact ⟨[], (List.append_nil _).symm⟩

theorem envMove_source_append (m : EnvMove) (s : State) : ∃ more, (envMove m s).source = s.source ++ more := by
  cases m with
  | offerItem it => exact ⟨[it], rfl⟩
  | _ => exact ⟨[], (List.append_nil _).symm⟩

theorem read_envMove (m : EnvMove) (s : State) (a : Addr) :
    Memory.read (envMove m s).store a =
      match m with
      | .hostWrite b v => if a = b then v else Memory.read s.store a
      | _ => Memory.read s.store a := by
  cases m with
  | hostWrite b v => exact Memory.read_set b a v s.store
  | _ => rfl

/-- HOST's record ends only by a write in the borrowed region (R250). -/
theorem envMove_hostKept (m : EnvMove) (s : State) :
    (envMove m s).hostKept = s.hostKept ∨
      ∃ a v, m = .hostWrite a v ∧ s.constructed = true ∧ inRegion s a ∧ (envMove m s).hostKept = false := by
  cases m with
  | hostWrite a v =>
    change (hostWrite a v s).hostKept = _ ∨ ∃ _ _, _ ∧ _ ∧ _ ∧ (hostWrite a v s).hostKept = false
    rw [hostWrite_hostKept]
    cases hb : s.constructed && isSlot s.storeBase s.capacity a with
    | false => exact .inl (by simp)
    | true =>
      obtain ⟨hc, hs⟩ := Bool.and_eq_true_iff.mp hb
      exact .inr ⟨a, v, rfl, hc, (isSlot_iff_inRegion s a).mp hs, by simp⟩
  | _ => exact .inl rfl

/-! ### Commands: what none of them touches (R37) -/

theorem sameEnvironment_of_execDoes {i : Instr} {s t : State} (h : ExecDoes s i t) : SameEnvironment s t := by
  cases h <;> exact ⟨rfl, rfl, rfl, rfl, rfl⟩

theorem sameStreams_of_execDoes {i : Instr} {s t : State} (h : ExecDoes s i t) : SameStreams s t := by
  cases h <;> exact ⟨rfl, rfl, rfl⟩

/-- Nothing is presented, or one word of R98. -/
def PresentsOne (s t : State) : Prop :=
  t.responses = s.responses ∨ ∃ st d, t.responses = s.responses ++ [responseWord st d]

theorem presentsOne_of_execDoes {i : Instr} {s t : State} (h : ExecDoes s i t) : PresentsOne s t := by
  cases h with
  | rxStart _ _ _ => exact .inl rfl
  | _ => exact .inr ⟨_, _, rfl⟩

theorem accesses_of_execDoes {i : Instr} {s t : State} (h : ExecDoes s i t) :
    t.accesses = s.accesses ∨ ∃ x, t.accesses = s.accesses ++ [x] := by
  cases storeUse_of_execDoes h with
  | writes a v _ _ _ wrote => exact .inr ⟨_, wrote.accesses⟩
  | reads a _ _ _ read => exact .inr ⟨_, read.accesses⟩
  | fails _ same => exact .inl same.accesses
  | noSlot _ _ same => exact .inl same.accesses

/-! ### The item taken by `SEQ_BYTE` (R184) -/

theorem sameEnvironment_receiveItem (it : SrcItem) (s : State) : SameEnvironment s (receiveItem it s) := by
  rcases receiveItem_cases it s with ⟨_, e⟩ | ⟨_, _, e⟩ | ⟨_, _, _, e⟩ | ⟨_, _, _, e⟩ <;> rw [e] <;>
    exact ⟨rfl, rfl, rfl, rfl, rfl⟩

theorem sameStreams_receiveItem (it : SrcItem) (s : State) : SameStreams s (receiveItem it s) := by
  rcases receiveItem_cases it s with ⟨_, e⟩ | ⟨_, _, e⟩ | ⟨_, _, _, e⟩ | ⟨_, _, _, e⟩ <;> rw [e] <;>
    exact ⟨rfl, rfl, rfl⟩

/-- An item faults the session, which answers, or it is pushed and the answer is still owed. -/
theorem responses_receiveItem (it : SrcItem) (s : State) :
    ((receiveItem it s).phase = .none ∧ ∃ m, (receiveItem it s).responses =
      s.responses ++ [responseWord .receiveFault (faultByte m)]) ∨
    (receiveItem it s).responses = s.responses := by
  rcases receiveItem_cases it s with ⟨_, e⟩ | ⟨_, _, e⟩ | ⟨_, _, _, e⟩ | ⟨_, _, _, e⟩ <;> rw [e]
  · exact .inl ⟨rfl, _, rfl⟩
  · exact .inl ⟨rfl, _, rfl⟩
  · exact .inr rfl
  · exact .inr rfl

theorem accesses_receiveItem (it : SrcItem) (s : State) :
    (receiveItem it s).accesses = s.accesses ∨ ∃ x, (receiveItem it s).accesses = s.accesses ++ [x] := by
  rcases receiveItem_cases it s with ⟨_, e⟩ | ⟨_, _, e⟩ | ⟨_, _, _, e⟩ | ⟨_, _, _, e⟩ <;> rw [e]
  · exact .inl rfl
  · exact .inl rfl
  · exact .inr ⟨_, rfl⟩
  · exact .inr ⟨_, rfl⟩

/-! ### Transfers (R91 to R93) -/

theorem cmdTransfer_iff (s : State) :
    cmdTransfer s = true ↔ clockEdge s = true ∧ s.commands ≠ [] ∧ s.phase = .none ∧ s.rst = false := by
  simp [cmdTransfer, cmdValid, cmdReady_iff, and_assoc]

theorem srcTransfer_iff (s : State) :
    srcTransfer s = true ↔ clockEdge s = true ∧ s.source ≠ [] ∧ s.phase = .byte ∧ s.rst = false := by
  simp [srcTransfer, srcValid, srcReady, and_assoc]

theorem snkTransfer_iff (s : State) :
    snkTransfer s = true ↔
      clockEdge s = true ∧ (s.phase = .resume ∨ s.phase = .pause) ∧ s.rst = false ∧ s.sinkReady = true := by
  simp [snkTransfer, snkValid, and_assoc]

/-- No transfer in a move of the environment. -/
theorem no_transfer_of_not_clockEdge {s : State} (h : clockEdge s = false) :
    cmdTransfer s = false ∧ srcTransfer s = false ∧ snkTransfer s = false := by
  simp [cmdTransfer, srcTransfer, snkTransfer, h]

/-- No transfer in reset (R240). -/
theorem no_transfer_of_rst {s : State} (h : s.rst = true) :
    cmdTransfer s = false ∧ srcTransfer s = false ∧ snkTransfer s = false := by
  simp [cmdTransfer, cmdReady, srcTransfer, srcReady, snkTransfer, snkValid, h]

theorem cmdTransfer_eq_false_of_phase {s : State} (h : s.phase ≠ .none) : cmdTransfer s = false := by
  simp [cmdTransfer, cmdReady, h]

theorem srcTransfer_eq_false_of_phase {s : State} (h : s.phase ≠ .byte) : srcTransfer s = false := by
  simp [srcTransfer, srcReady, h]

theorem snkTransfer_eq_false_of_phase {s : State} (h₁ : s.phase ≠ .resume) (h₂ : s.phase ≠ .pause) :
    snkTransfer s = false := by
  simp [snkTransfer, snkValid, h₁, h₂]

theorem InPhase.phase_ne {s : State} {p q : Phase} (h : InPhase s p) (hne : p ≠ q) : s.phase ≠ q := h.phase ▸ hne

/-- The words a step takes: the first one offered at a transfer, else none (R91). -/
theorem commands_of_stepDoes {s t : State} (hd : StepDoes s t) :
    (cmdTransfer s = true ∧ t.commands = s.commands.tail) ∨
    (cmdTransfer s = false ∧ ∃ more, t.commands = s.commands ++ more) := by
  have kept {u : State} (hu : u.commands = s.commands) : ∃ more, u.commands = s.commands ++ more :=
    ⟨[], hu.trans (List.append_nil _).symm⟩
  cases hd with
  | environment m rest _ _ edge =>
    exact .inr ⟨(no_transfer_of_not_clockEdge edge).1, envMove_commands_append m _⟩
  | reset _ hr => exact .inr ⟨(no_transfer_of_rst hr).1, kept rfl⟩
  | wait p hp hw =>
    refine .inr ⟨?_, kept rfl⟩
    rcases hw with ⟨_, noCommand⟩ | ⟨rfl, _⟩ | ⟨rfl, _⟩ | ⟨rfl, _⟩
    · simp [cmdTransfer, cmdValid, noCommand]
    all_goals exact cmdTransfer_eq_false_of_phase (hp.phase_ne (by decide))
  | illegal w rest why hp hw _ =>
    exact .inl ⟨(cmdTransfer_iff s).mpr ⟨hp.edge, by simp [hw], hp.phase, hp.rst⟩, rfl⟩
  | command i _ hp hi he =>
    obtain ⟨_, _, _, w, rest, hw, _⟩ := hi
    exact .inl ⟨(cmdTransfer_iff s).mpr ⟨hp.edge, by simp [hw], hp.phase, hp.rst⟩,
      (sameEnvironment_of_execDoes (exec_does he)).commands⟩
  | resume hp _ => exact .inr ⟨cmdTransfer_eq_false_of_phase (hp.phase_ne (by decide)), kept rfl⟩
  | byte it rest hp _ =>
    exact .inr ⟨cmdTransfer_eq_false_of_phase (hp.phase_ne (by decide)),
      kept (sameEnvironment_receiveItem it _).commands⟩
  | pause hp _ => exact .inr ⟨cmdTransfer_eq_false_of_phase (hp.phase_ne (by decide)), kept rfl⟩

/-- The items a step takes: the first one offered at a transfer, else none (R92). -/
theorem source_of_stepDoes {s t : State} (hd : StepDoes s t) :
    (srcTransfer s = true ∧ ∃ it rest, s.source = it :: rest ∧ t.source = rest ∧ t.taken = s.taken + 1) ∨
    (srcTransfer s = false ∧ t.taken = s.taken ∧ ∃ more, t.source = s.source ++ more) := by
  have kept {u : State} (hu : u.source = s.source) : ∃ more, u.source = s.source ++ more :=
    ⟨[], hu.trans (List.append_nil _).symm⟩
  cases hd with
  | environment m rest _ _ edge =>
    exact .inr ⟨(no_transfer_of_not_clockEdge edge).2.1, envMove_taken m _, envMove_source_append m _⟩
  | reset _ hr => exact .inr ⟨(no_transfer_of_rst hr).2.1, rfl, kept rfl⟩
  | wait p hp hw =>
    refine .inr ⟨?_, rfl, kept rfl⟩
    rcases hw with ⟨rfl, _⟩ | ⟨rfl, _⟩ | ⟨_, noItem⟩ | ⟨rfl, _⟩
    · exact srcTransfer_eq_false_of_phase (hp.phase_ne (by decide))
    · exact srcTransfer_eq_false_of_phase (hp.phase_ne (by decide))
    · simp [srcTransfer, srcValid, noItem]
    · exact srcTransfer_eq_false_of_phase (hp.phase_ne (by decide))
  | illegal w rest why hp _ _ =>
    exact .inr ⟨srcTransfer_eq_false_of_phase (hp.phase_ne (by decide)), rfl, kept rfl⟩
  | command i _ hp _ he =>
    obtain ⟨source, taken, _⟩ := sameStreams_of_execDoes (exec_does he)
    exact .inr ⟨srcTransfer_eq_false_of_phase (hp.phase_ne (by decide)), taken, kept source⟩
  | resume hp _ => exact .inr ⟨srcTransfer_eq_false_of_phase (hp.phase_ne (by decide)), rfl, kept rfl⟩
  | byte it rest hp hs =>
    obtain ⟨source, taken, _⟩ := sameStreams_receiveItem it (srcTake rest { s with moves := s.moves.tail })
    exact .inl ⟨(srcTransfer_iff s).mpr ⟨hp.edge, by simp [hs], hp.phase, hp.rst⟩, it, rest, hs, source, taken⟩
  | pause hp _ => exact .inr ⟨srcTransfer_eq_false_of_phase (hp.phase_ne (by decide)), rfl, kept rfl⟩

/-- The bytes a step hands over: the phase's control byte at a transfer, else none (R93). -/
theorem sink_of_stepDoes {s t : State} (hd : StepDoes s t) :
    (snkTransfer s = true ∧ ((s.phase = .resume ∧ t.sink = s.sink ++ [s.cfg.resumeCode]) ∨
      (s.phase = .pause ∧ t.sink = s.sink ++ [s.cfg.pauseCode]))) ∨
    (snkTransfer s = false ∧ t.sink = s.sink) := by
  have outside {p : Phase} (hp : InPhase s p) (h₁ : p ≠ .resume) (h₂ : p ≠ .pause) : snkTransfer s = false :=
    snkTransfer_eq_false_of_phase (hp.phase_ne h₁) (hp.phase_ne h₂)
  cases hd with
  | environment m rest _ _ edge => exact .inr ⟨(no_transfer_of_not_clockEdge edge).2.2, envMove_sink m _⟩
  | reset _ hr => exact .inr ⟨(no_transfer_of_rst hr).2.2, rfl⟩
  | wait p hp hw =>
    refine .inr ⟨?_, rfl⟩
    rcases hw with ⟨rfl, _⟩ | ⟨_, notReady⟩ | ⟨rfl, _⟩ | ⟨_, notReady⟩
    · exact outside hp (by decide) (by decide)
    · simp [snkTransfer, notReady]
    · exact outside hp (by decide) (by decide)
    · simp [snkTransfer, notReady]
  | illegal w rest why hp _ _ => exact .inr ⟨outside hp (by decide) (by decide), rfl⟩
  | command i _ hp _ he =>
    exact .inr ⟨outside hp (by decide) (by decide), (sameStreams_of_execDoes (exec_does he)).sink⟩
  | resume hp hr =>
    exact .inl ⟨(snkTransfer_iff s).mpr ⟨hp.edge, .inl hp.phase, hp.rst, hr⟩, .inl ⟨hp.phase, rfl⟩⟩
  | byte it rest hp _ =>
    exact .inr ⟨outside hp (by decide) (by decide), (sameStreams_receiveItem it _).sink⟩
  | pause hp hr =>
    exact .inl ⟨(snkTransfer_iff s).mpr ⟨hp.edge, .inr hp.phase, hp.rst, hr⟩, .inr ⟨hp.phase, rfl⟩⟩

theorem cfg_of_stepDoes {s t : State} (hd : StepDoes s t) : t.cfg = s.cfg := by
  cases hd with
  | environment m rest _ _ _ => exact envMove_cfg m _
  | command i _ _ _ he => exact (sameEnvironment_of_execDoes (exec_does he)).cfg
  | byte it rest _ _ => exact (sameEnvironment_receiveItem it _).cfg
  | reset _ _ | wait _ _ _ | illegal _ _ _ _ _ _ | resume _ _ | pause _ _ => rfl

theorem presentsOne_of_stepDoes {s t : State} (hd : StepDoes s t) : PresentsOne s t := by
  cases hd with
  | environment m rest _ _ _ => exact .inl (envMove_responses m _)
  | command i _ _ _ he =>
    have one : PresentsOne (commandTaken s) t := presentsOne_of_execDoes (exec_does he)
    exact one
  | byte it rest _ _ =>
    rcases responses_receiveItem it (srcTake rest { s with moves := s.moves.tail }) with ⟨_, m, e⟩ | e
    · exact .inr ⟨_, _, e⟩
    · exact .inl e
  | reset _ _ | wait _ _ _ | resume _ _ => exact .inl rfl
  | illegal _ _ _ _ _ _ | pause _ _ => exact .inr ⟨_, _, rfl⟩

theorem accesses_of_stepDoes {s t : State} (hd : StepDoes s t) :
    t.accesses = s.accesses ∨ ∃ x, t.accesses = s.accesses ++ [x] := by
  cases hd with
  | environment m rest _ _ _ => exact .inl (envMove_accesses m _)
  | command i _ _ _ he =>
    have atMostOne := accesses_of_execDoes (exec_does he)
    exact atMostOne
  | byte it rest _ _ => exact accesses_receiveItem it _
  | reset _ _ | wait _ _ _ | illegal _ _ _ _ _ _ | resume _ _ | pause _ _ => exact .inl rfl

/-- While a session goes on, its answer is owed. -/
theorem responses_of_stepDoes_in_session {s t : State} (hd : StepDoes s t) (hs : s.phase ≠ .none)
    (ht : t.phase ≠ .none) : t.responses = s.responses := by
  cases hd with
  | environment m rest _ _ _ => exact envMove_responses m _
  | illegal _ _ _ hp _ _ => exact absurd hp.phase hs
  | command _ _ hp _ _ => exact absurd hp.phase hs
  | byte it rest _ _ =>
    rcases responses_receiveItem it (srcTake rest { s with moves := s.moves.tail }) with ⟨ended, _⟩ | e
    · exact absurd ended ht
    · exact e
  | pause _ _ => exact absurd rfl ht
  | reset _ _ | wait _ _ _ | resume _ _ => rfl

/-! ### The answers (R98, R99) -/

theorem responseWord_zeroBits (st : Status) (d : Byte) : (responseWord st d).extractLsb' 8 4 = 0#4 := by
  apply BitVec.eq_of_toNat_eq
  have hd := d.isLt
  simp only [responseWord, BitVec.extractLsb'_toNat, Nat.shiftRight_eq_div_pow, toNat_join, BitVec.toNat_ofNat]
  omega

theorem statusCode_range (st : Status) : (statusCode st).toNat ≤ 9 ∨ statusCode st = 0xF#4 := by
  cases st <;> decide

/-! ### The block's step where it takes a legal word, and where it waits -/

theorem execWord_of_legal {w : CmdWord} {i : Instr} (h : decode w = .legal i) (s : State) :
    execWord w s = exec i s := by
  rw [execWord, h]

theorem step_of_issues {s : State} {i : Instr} (h : Issues s i) : step s = exec i (commandTaken s) := by
  obtain ⟨edge, rst, phase, w, rest, hw, hd⟩ := h
  exact (step_eq_execWord ⟨edge, rst, phase⟩ hw).trans (execWord_of_legal hd _)

theorem decode_of_decodeTableWord {nbits w : Nat} {i : Instr} (h : decodeTableWord nbits w = some i) :
    decode (tableWord nbits w) = .legal i := by
  unfold decodeTableWord at h
  split at h
  · next hd => rw [hd, Option.some.inj h]
  · cases h

theorem issues_placeCommand {w : CmdWord} {i : Instr} (h : decode w = .legal i) (s : State) :
    Issues (placeCommand w s) i := by
  refine ⟨?_, rfl, rfl, w, s.commands, rfl, h⟩
  unfold placeCommand clockEdge
  by_cases hm : s.moves = [] <;> simp [hm]

theorem commandTaken_placeCommand (w : CmdWord) (s : State) :
    commandTaken (placeCommand w s) = { s with phase := .none, rst := false } := by
  unfold placeCommand commandTaken
  by_cases hm : s.moves = [] <;> simp [hm]

theorem blockStep_of_phase_resume {s : State} (hr : s.rst = false) (hp : s.phase = .resume) :
    blockStep s = .next (seqResume s) := by
  rw [blockStep, hr, hp]
  rfl

theorem blockStep_of_phase_pause {s : State} (hr : s.rst = false) (hp : s.phase = .pause) :
    blockStep s = .next (seqPause s) := by
  rw [blockStep, hr, hp]
  rfl

theorem step_of_phase_none {s : State} (h : InPhase s .none) :
    step s = takeCommand { s with moves := s.moves.tail } :=
  (step_edge h.edge).trans (blockStep_of_phase_none h.rst h.phase)

theorem step_of_phase_resume {s : State} (h : InPhase s .resume) :
    step s = .next (seqResume { s with moves := s.moves.tail }) :=
  (step_edge h.edge).trans (blockStep_of_phase_resume h.rst h.phase)

theorem step_of_phase_byte {s : State} (h : InPhase s .byte) :
    step s = .next (seqByte { s with moves := s.moves.tail }) :=
  (step_edge h.edge).trans (blockStep_of_phase_byte h.rst h.phase)

theorem step_of_phase_pause {s : State} (h : InPhase s .pause) :
    step s = .next (seqPause { s with moves := s.moves.tail }) :=
  (step_edge h.edge).trans (blockStep_of_phase_pause h.rst h.phase)

theorem takeCommand_nil {s : State} (h : s.commands = []) : takeCommand s = .next s := by
  rw [takeCommand, h]

theorem seqResume_of_not_ready {s : State} (h : s.sinkReady = false) : seqResume s = s :=
  if_neg (ne_true_of_eq_false h)

theorem seqPause_of_not_ready {s : State} (h : s.sinkReady = false) : seqPause s = s :=
  if_neg (ne_true_of_eq_false h)

theorem seqByte_nil {s : State} (h : s.source = []) : seqByte s = s := by
  rw [seqByte, h]

/-! ### Every step has a next state -/

theorem takeCommand_next (s : State) : ∃ t, takeCommand s = .next t := by
  rcases takeCommand_cases s with ⟨_, e⟩ | ⟨w, rest, _, e⟩ <;> rw [e]
  · exact ⟨_, rfl⟩
  · rcases execWord_cases w { s with commands := rest } with ⟨i, _, e⟩ | ⟨_, _, e⟩ <;> rw [e]
    · exact exec_next i _
    · exact ⟨_, rfl⟩

theorem blockStep_next (s : State) : ∃ t, blockStep s = .next t := by
  rcases blockStep_cases s with ⟨_, e⟩ | ⟨_, _, e⟩ | ⟨_, _, e⟩ | ⟨_, _, e⟩ | ⟨_, _, e⟩ <;> rw [e]
  case inr.inl => exact takeCommand_next s
  all_goals exact ⟨_, rfl⟩

theorem step_next (s : State) : ∃ t, step s = .next t := by
  rcases step_cases s with ⟨_, m, rest, _, _, e⟩ | ⟨_, e⟩ <;> rw [e]
  · exact ⟨_, rfl⟩
  · exact blockStep_next _

/-! ### The ports while `rst` is 1 (R240) -/

theorem rspWord_of_same {s t : State} (h : t.responses = s.responses) : rspWord s t = none := by
  simp [rspWord, h]

theorem storePort_of_same {s t : State} (h : t.accesses = s.accesses) : storePort s t = none := by
  simp [storePort, h]

theorem stWe_of_same {s t : State} (h : t.accesses = s.accesses) : stWe s t = false := by
  rw [stWe, storePort_of_same h]

theorem stRe_of_same {s t : State} (h : t.accesses = s.accesses) : stRe s t = false := by
  rw [stRe, storePort_of_same h]

theorem outputs_quiet_of_rst {s : State} (h : s.rst = true) :
    cmdReady s = false ∧ srcReady s = false ∧ snkValid s = false := by
  simp [cmdReady, srcReady, snkValid, h]

theorem srcReady_of_phase_ne {s : State} (h : s.phase ≠ .byte) : srcReady s = false := by
  simp [srcReady, h]

theorem snkData_of_resume {s : State} (hv : snkValid s = true) (hp : s.phase = .resume) :
    snkData s = some s.cfg.resumeCode := by
  simp [snkData, hv, hp]

theorem snkData_of_pause {s : State} (hv : snkValid s = true) (hp : s.phase = .pause) :
    snkData s = some s.cfg.pauseCode := by
  simp [snkData, hv, hp]

end Sys2Proof.Machine

namespace Sys2Proof.Proofs

open Sys2Proof Sys2Proof.Machine

/-- Settles O7: a word that decodes to a command executes it; `withFetchWord` offers such a word, and taking it leaves
the state it was given, but for the phase and `rst`. -/
theorem stepRunsTheDecodedCommand : Obligations.StepRunsTheDecodedCommand := by
  refine ⟨fun s i h => step_of_issues h, fun s nbits w i h => ?placed⟩
  case placed =>
    have issues := issues_placeCommand (decode_of_decodeTableWord h) s
    exact (step_of_issues issues).trans (congrArg (exec i) (commandTaken_placeCommand _ s))

/-- Settles O8: the step is `envMove`, whose effect on each field is a lemma. -/
theorem environmentMoveChangesOnlyItsOwnSide : Obligations.EnvironmentMoveChangesOnlyItsOwnSide := by
  intro s m rest hm hc
  obtain ⟨capacity, length, front, back, storeBase, constructed⟩ := sameRing_envMove m { s with moves := rest }
  obtain ⟨threshold, delim, rxState, fault, phase⟩ := sameReceiver_envMove m { s with moves := rest }
  exact ⟨_, step_of_move hm hc, envMove_moves m _, ⟨capacity, length, front, back, storeBase, constructed⟩,
    ⟨threshold, delim, rxState, fault, phase⟩, envMove_cfg m _, envMove_responses m _, envMove_sink m _,
    envMove_taken m _, envMove_accesses m _, envMove_draws m _, envMove_pushed m _,
    envMove_hostKept m { s with moves := rest }, envMove_rst m _, envMove_sinkReady m _, envMove_commands m _,
    envMove_source m _, read_envMove m _⟩

/-- Settles O9: in each of the four waits the step that the phase enables does nothing. -/
theorem waitingChangesNothing : Obligations.WaitingChangesNothing := by
  rintro s (⟨hp, noCommand⟩ | ⟨hp, notReady⟩ | ⟨hp, noItem⟩ | ⟨hp, notReady⟩)
  · exact (step_of_phase_none hp).trans (takeCommand_nil noCommand)
  · exact (step_of_phase_resume hp).trans (congrArg _ (seqResume_of_not_ready notReady))
  · exact (step_of_phase_byte hp).trans (congrArg _ (seqByte_nil noItem))
  · exact (step_of_phase_pause hp).trans (congrArg _ (seqPause_of_not_ready notReady))

/-- Settles O10: every command, every phase and every move of the environment answers a next state. -/
theorem noStepStopsTheMachine : Obligations.NoStepStopsTheMachine := step_next

/-- Settles O11: each trace by what a step can do to it. -/
theorem aStepDoesAtMostOneOfEach : Obligations.AStepDoesAtMostOneOfEach := by
  intro s t h
  have does := step_does h
  refine ⟨cfg_of_stepDoes does, ?responses, ?sink, ?taken, accesses_of_stepDoes does⟩
  case responses =>
    rcases presentsOne_of_stepDoes does with same | ⟨st, d, one⟩
    · exact .inl same
    · exact .inr ⟨_, one⟩
  case sink =>
    rcases sink_of_stepDoes does with ⟨_, ⟨_, one⟩ | ⟨_, one⟩⟩ | ⟨_, same⟩
    · exact .inr ⟨_, one⟩
    · exact .inr ⟨_, one⟩
    · exact .inl same
  case taken =>
    rcases source_of_stepDoes does with ⟨_, _, _, _, _, one⟩ | ⟨_, same, _⟩
    · exact .inr one
    · exact .inl same

/-- Settles O14: `rst` is in the definition of every ready and valid output, and the step is `resetBlock`. -/
theorem outputsAreQuietWhileInReset : Obligations.OutputsAreQuietWhileInReset := by
  intro s hr
  obtain ⟨cmd, src, snk⟩ := outputs_quiet_of_rst hr
  refine ⟨cmd, src, snk, fun edge => ⟨_, step_of_rst edge hr, rspWord_of_same (resetBlock_responses _),
    stWe_of_same (resetBlock_accesses _), stRe_of_same (resetBlock_accesses _), resetBlock_commands _⟩⟩

/-- Settles O23: a step presents nothing but words built by `responseWord`. -/
theorem everyResponseHasTheOneFormat : Obligations.EveryResponseHasTheOneFormat := by
  intro s t r h hr
  rcases presentsOne_of_stepDoes (step_does h) with same | ⟨st, d, one⟩
  · simp [same] at hr
  · obtain rfl : r = responseWord st d := List.singleton_inj.mp (List.append_cancel_left (hr.symm.trans one))
    exact ⟨responseWord_zeroBits st d, statusOf_responseWord st d ▸ statusCode_range st⟩

/-- Settles O24: by what a step does to the offers; in a session no word is transferred, and the answer is owed. -/
theorem commandsAreTakenOneAtATime : Obligations.CommandsAreTakenOneAtATime := by
  intro s t h
  have does := step_does h
  refine ⟨fun transfer => ?taken, fun transfer => ?kept, cmdReady_iff s,
    fun hp => ⟨cmdTransfer_eq_false_of_phase hp, responses_of_stepDoes_in_session does hp⟩⟩
  case taken =>
    rcases commands_of_stepDoes does with ⟨_, tail⟩ | ⟨none, _⟩
    · exact tail
    · cases none.symm.trans transfer
  case kept =>
    rcases commands_of_stepDoes does with ⟨one, _⟩ | ⟨_, more⟩
    · cases one.symm.trans transfer
    · exact more

/-- Settles O25: by what a step does to the items offered. -/
theorem itemsAreTakenExactlyAtASourceTransfer : Obligations.ItemsAreTakenExactlyAtASourceTransfer := by
  intro s t h
  refine ⟨fun transfer => ?taken, fun transfer => ?kept, srcReady_of_phase_ne⟩
  case taken =>
    rcases source_of_stepDoes (step_does h) with ⟨_, one⟩ | ⟨none, _⟩
    · exact one
    · cases none.symm.trans transfer
  case kept =>
    rcases source_of_stepDoes (step_does h) with ⟨one, _⟩ | ⟨_, same⟩
    · cases one.symm.trans transfer
    · exact same

/-- Settles O26: by what a step does to the sink trace. -/
theorem onlyControlBytesReachTheSink : Obligations.OnlyControlBytesReachTheSink := by
  intro s t h
  refine ⟨fun transfer => ?appended, fun transfer => ?kept, snkData_of_resume, snkData_of_pause⟩
  case appended =>
    rcases sink_of_stepDoes (step_does h) with ⟨_, one⟩ | ⟨none, _⟩
    · exact one
    · cases none.symm.trans transfer
  case kept =>
    rcases sink_of_stepDoes (step_does h) with ⟨one, _⟩ | ⟨_, same⟩
    · cases one.symm.trans transfer
    · exact same

end Sys2Proof.Proofs
end

section
/-! PROOFS. What moves the registers (`10_state.md` section 2, `41_receiver_ops.md` section 2): the ring buffer's and
the receiver's, by commands, by `SEQ_BYTE` and by each step. -/

namespace Sys2Proof.Machine

open Sys2Proof

/-! ### The ring buffer's registers under a command (R37) -/

theorem constructed_of_execDoes {i : Instr} {s t : State} (h : ExecDoes s i t) :
    t.constructed = s.constructed ∨
      ∃ store capacity, i = .construct store capacity ∧ store ≠ 0x0000#16 ∧ capacity ≠ 0#8 ∧ t.constructed = true := by
  cases h with
  | construct store capacity hs hc => exact .inr ⟨store, capacity, rfl, hs, hc, rfl⟩
  | _ => exact .inl rfl

/-- What a command does to `LENGTH` (R24). -/
inductive LengthMoves (s : State) (i : Instr) (t : State) : Prop
  | kept (h : t.length = s.length)
  | cleared (store : Addr) (capacity : Byte) (hi : i = .construct store capacity) (h : t.length = 0#8)
  | pushed (d : Byte) (hi : i = .pushBack d ∨ i = .pushFront d) (h : t.length.toNat = s.length.toNat + 1)
  | popped (hi : i = .popBack ∨ i = .popFront) (h : t.length.toNat + 1 = s.length.toNat)

theorem lengthMoves_of_execDoes {i : Instr} {s t : State} (hs : Coherent s) (h : ExecDoes s i t) :
    LengthMoves s i t := by
  cases h with
  | construct store capacity _ _ => exact .cleared store capacity rfl rfl
  | pushBack d hc hl => exact .pushed d (.inl rfl) (toReg8_succ (hs.room hc hl))
  | pushFront d hc hl => exact .pushed d (.inr rfl) (toReg8_succ (hs.room hc hl))
  | popBack _ hl =>
    refine .popped (.inl rfl) ?_
    rw [respond_length, takeBack_length, toReg8_pred, Nat.sub_one_add_one (byte_pos_of_ne hl).ne']
  | popFront _ hl =>
    refine .popped (.inr rfl) ?_
    rw [respond_length, takeFront_length, toReg8_pred, Nat.sub_one_add_one (byte_pos_of_ne hl).ne']
  | _ => exact .kept rfl

/-- What a command does to `FRONT` (R25). -/
inductive FrontMoves (s : State) (i : Instr) (t : State) : Prop
  | kept (h : t.front = s.front)
  | cleared (store : Addr) (capacity : Byte) (hi : i = .construct store capacity) (h : t.front = 0#8)
  | retreats (d : Byte) (hi : i = .pushFront d)
      (h : t.front.toNat = (s.front.toNat + s.capacity.toNat - 1) % s.capacity.toNat)
  | advances (hi : i = .popFront) (h : t.front.toNat = (s.front.toNat + 1) % s.capacity.toNat)

theorem frontMoves_of_execDoes {i : Instr} {s t : State} (hs : Coherent s) (h : ExecDoes s i t) :
    FrontMoves s i t := by
  cases h with
  | construct store capacity _ _ => exact .cleared store capacity rfl rfl
  | pushFront d hc _ => exact .retreats d rfl (retreat_toNat (hs.inv1 hc).1 _)
  | popFront hc _ => exact .advances rfl (advance_toNat (hs.inv1 hc).1 _)
  | _ => exact .kept rfl

/-- What a command does to `BACK` (R26). -/
inductive BackMoves (s : State) (i : Instr) (t : State) : Prop
  | kept (h : t.back = s.back)
  | cleared (store : Addr) (capacity : Byte) (hi : i = .construct store capacity) (h : t.back = 0#8)
  | advances (d : Byte) (hi : i = .pushBack d) (h : t.back.toNat = (s.back.toNat + 1) % s.capacity.toNat)
  | retreats (hi : i = .popBack) (h : t.back.toNat = (s.back.toNat + s.capacity.toNat - 1) % s.capacity.toNat)

theorem backMoves_of_execDoes {i : Instr} {s t : State} (hs : Coherent s) (h : ExecDoes s i t) :
    BackMoves s i t := by
  cases h with
  | construct store capacity _ _ => exact .cleared store capacity rfl rfl
  | pushBack d hc _ => exact .advances d rfl (advance_toNat (hs.inv1 hc).1 _)
  | popBack hc _ => exact .retreats rfl (retreat_toNat (hs.inv1 hc).1 _)
  | _ => exact .kept rfl

/-! ### The receiver's registers under a command (R37) -/

/-- An accepted `RX_START` moves `STATE`, `FAULT` and `PHASE`, and nothing else does. -/
theorem receiver_of_execDoes {i : Instr} {s t : State} (h : ExecDoes s i t) :
    (t.rxState = s.rxState ∧ t.fault = s.fault ∧ t.phase = s.phase) ∨
      (i = .rxStart ∧ t = startSession s ∧ s.constructed = true ∧
        ¬(s.rxState = .faulted ∧ s.cfg.faultPolicy = .halt) ∧
        ¬(s.threshold = 0#8 ∨ s.capacity.toNat < s.threshold.toNat)) := by
  cases h with
  | rxStart hc hf ht => exact .inr ⟨rfl, rfl, hc, hf, ht⟩
  | _ => exact .inl ⟨rfl, rfl, rfl⟩

/-- Outside a session, `RX_START` is not halted in Idle, in Completed, and in Faulted under Restartable. -/
theorem startable_of_not_halted {s : State} (hr : s.rxState ≠ .receiving)
    (hf : ¬(s.rxState = .faulted ∧ s.cfg.faultPolicy = .halt)) :
    s.rxState = .idle ∨ s.rxState = .completed ∨ (s.rxState = .faulted ∧ s.cfg.faultPolicy = .restartable) := by
  cases hx : s.rxState with
  | idle => exact .inl rfl
  | receiving => exact absurd hx hr
  | completed => exact .inr (.inl rfl)
  | faulted =>
    cases hp : s.cfg.faultPolicy with
    | halt => exact absurd ⟨hx, hp⟩ hf
    | restartable => exact .inr (.inr ⟨rfl, rfl⟩)

/-- The word that issues a command is its encoding. -/
theorem head?_of_issues {s : State} {i : Instr} (h : Issues s i) : s.commands.head? = some (encode i) := by
  obtain ⟨_, _, _, w, rest, hw, hd⟩ := h
  rw [hw, List.head?_cons, encode_of_decode hd]

/-! ### The item taken by `SEQ_BYTE` (R184, R222) -/

/-- What becomes of the item in `s`: it faults the session, or it is pushed as by `PUSH_BACK` and the session goes on
or stops. -/
theorem receiveItem_faults_or_pushes (it : SrcItem) (s : State) :
    ((it.clean = false ∨ s.length = s.capacity) ∧ receiveItem it s = raiseReceiveFault (causeMask it) s) ∨
    (it.clean = true ∧ s.length ≠ s.capacity ∧
      receiveItem it s = { placeBack it.data s with
        phase := if stopCondition it.data (placeBack it.data s) then .pause else s.phase }) := by
  rcases receiveItem_cases it s with ⟨dirty, _⟩ | ⟨_, hl, _⟩ | ⟨hc, hl, stop, e⟩ | ⟨hc, hl, stop, e⟩
  · exact .inl ⟨.inl dirty, receiveItem_eq_raiseReceiveFault (.inl dirty)⟩
  · exact .inl ⟨.inr hl, receiveItem_eq_raiseReceiveFault (.inr hl)⟩
  · exact .inr ⟨hc, hl, by rw [e, stop]; rfl⟩
  · exact .inr ⟨hc, hl, by rw [e, stop]; rfl⟩

/-! ### The ring buffer's registers under a step -/

/-- What can move a register of the ring buffer: reset, a command, or `SEQ_BYTE` with a byte that is pushed. -/
inductive RingMoves (s : State) (t : State) : Prop
  | kept (h : SameRing s t)
  | reset (edge : clockEdge s = true) (rst : s.rst = true) (h : SameRing State.reset t)
  | command (i : Instr) (hi : Issues s i) (hp : s.phase = .none) (h : ExecDoes (commandTaken s) i t)
  | received (d : Byte) (hp : InPhase s .byte) (hl : s.length ≠ s.capacity) (taken : t.taken = s.taken + 1)
      (h : SameRing (placeBack d s) t)

theorem ringMoves_of_stepDoes {s t : State} (hd : StepDoes s t) : RingMoves s t := by
  cases hd with
  | environment m rest _ _ _ =>
    obtain ⟨capacity, length, front, back, storeBase, constructed⟩ := sameRing_envMove m { s with moves := rest }
    exact .kept ⟨capacity, length, front, back, storeBase, constructed⟩
  | reset edge rst => exact .reset edge rst (sameRing_reset_resetBlock _)
  | command i _ hp hi he => exact .command i hi hp.phase (exec_does he)
  | byte it rest hp _ =>
    rcases receiveItem_faults_or_pushes it (srcTake rest { s with moves := s.moves.tail }) with
      ⟨_, e⟩ | ⟨_, hl, e⟩ <;> rw [e]
    · exact .kept (sameRing_sessionFault _ rest s)
    · exact .received it.data hp hl rfl ⟨rfl, rfl, rfl, rfl, rfl, rfl⟩
  | wait _ _ _ | illegal _ _ _ _ _ _ | resume _ _ | pause _ _ => exact .kept ⟨rfl, rfl, rfl, rfl, rfl, rfl⟩

end Sys2Proof.Machine

namespace Sys2Proof.Proofs

open Sys2Proof Sys2Proof.Machine

/-- Settles O17: `STATE` is moved by reset, by an accepted `RX_START`, by an item that faults the session and by
`SEQ_PAUSE`, one case for each row of the table. -/
theorem receiverStateMovesOnlyAsTheTableSays : Obligations.ReceiverStateMovesOnlyAsTheTableSays := by
  intro s t hco h changed
  cases step_does h with
  | environment m rest _ _ _ => exact absurd (sameReceiver_envMove m _).rxState changed
  | reset edge rst => exact .inl ⟨edge, rst, rfl⟩
  | wait _ _ _ | illegal _ _ _ _ _ _ | resume _ _ => exact absurd rfl changed
  | command i _ hp hi he =>
    rcases receiver_of_execDoes (exec_does he) with ⟨same, _, _⟩ | ⟨rfl, rfl, hc, hf, ht⟩
    · exact absurd same changed
    · obtain ⟨nonzero, le⟩ := not_or.mp ht
      exact .inr (.inl ⟨hp, head?_of_issues hi, hc,
        startable_of_not_halted (hco.not_receiving_of_phase_none hp.phase) hf, byte_pos_of_ne nonzero,
        Nat.le_of_not_lt le, rfl, rfl, rfl, rfl⟩)
  | byte it rest hp hs =>
    have receiving := hco.receiving_of_phase hp.phase (by decide)
    rcases receiveItem_faults_or_pushes it (srcTake rest { s with moves := s.moves.tail }) with
      ⟨hf, e⟩ | ⟨_, _, e⟩ <;> rw [e] at changed ⊢
    · exact .inr (.inr (.inl ⟨hp, receiving, ⟨it, rest, hs, hf⟩, rfl, rfl, rfl⟩))
    · exact absurd rfl changed
  | pause hp hr =>
    exact .inr (.inr (.inr ⟨hp, hco.receiving_of_phase hp.phase (by decide), hr, rfl, rfl, rfl⟩))

/-- Settles O18: no session is on in Faulted, so no step of the sequencer is enabled, and `RX_START` is halted. -/
theorem faultedUnderHaltIsLeftOnlyByReset : Obligations.FaultedUnderHaltIsLeftOnlyByReset := by
  intro s t hco faulted halt h
  have noSession {p : Phase} (hp : InPhase s p) (hne : p ≠ .none) : False := by
    cases faulted.symm.trans (hco.receiving_of_phase hp.phase hne)
  cases step_does h with
  | environment m rest _ _ _ =>
    exact .inl ⟨(sameReceiver_envMove m _).rxState.trans faulted, (sameReceiver_envMove m _).fault⟩
  | reset edge rst => exact .inr ⟨edge, rst, rfl, rfl⟩
  | wait _ _ _ | illegal _ _ _ _ _ _ => exact .inl ⟨faulted, rfl⟩
  | command i _ _ _ he =>
    rcases receiver_of_execDoes (exec_does he) with ⟨rxState, fault, _⟩ | ⟨_, _, _, notHalted, _⟩
    · exact .inl ⟨rxState.trans faulted, fault⟩
    · exact absurd ⟨faulted, halt⟩ notHalted
  | resume hp _ | byte _ _ hp _ | pause hp _ => exact (noSession hp (by decide)).elim

/-- Settles O19: of what can move a register of the ring buffer, reset and a successful `CONSTRUCT` move this one. -/
theorem constructedChangesOnlyByConstructAndReset : Obligations.ConstructedChangesOnlyByConstructAndReset := by
  intro s t h changed
  cases ringMoves_of_stepDoes (step_does h) with
  | kept same => exact absurd same.constructed changed
  | reset edge rst ring => exact .inl ⟨edge, rst, ring.constructed⟩
  | command i hi _ does =>
    rcases constructed_of_execDoes does with same | ⟨store, capacity, rfl, hs, hc, set⟩
    · exact absurd same changed
    · exact .inr ⟨store, capacity, hi, hs, hc, set⟩
  | received d _ _ _ ring => exact absurd ring.constructed changed

/-- Settles O20: each register by what a command does to it, by the push of a received byte, or by reset. -/
theorem queueRegistersMoveOnlyAsTheirRulesSay : Obligations.QueueRegistersMoveOnlyAsTheirRulesSay := by
  intro s t hco h
  cases ringMoves_of_stepDoes (step_does h) with
  | kept same =>
    exact ⟨fun changed => absurd same.length changed, fun changed => absurd same.front changed,
      fun changed => absurd same.back changed⟩
  | reset edge rst ring =>
    exact ⟨fun _ => .inl ⟨edge, rst, ring.length⟩, fun _ => .inl ⟨edge, rst, ring.front⟩,
      fun _ => .inl ⟨edge, rst, ring.back⟩⟩
  | received d hp hl taken ring =>
    have hc := (hco.inv9 (hco.receiving_of_phase hp.phase (by decide))).1
    have length : t.length.toNat = s.length.toNat + 1 :=
      (congrArg BitVec.toNat ring.length).trans (toReg8_succ (hco.room hc hl))
    have back : t.back.toNat = (s.back.toNat + 1) % s.capacity.toNat :=
      (congrArg BitVec.toNat ring.back).trans (advance_toNat (hco.inv1 hc).1 _)
    exact ⟨fun _ => .inr (.inr (.inr (.inl ⟨hp, taken, length⟩))), fun changed => absurd ring.front changed,
      fun _ => .inr (.inr (.inl ⟨.inr ⟨hp, taken⟩, back⟩))⟩
  | command i hi _ does =>
    have coherent := coherent_commandTaken hco
    refine ⟨fun changed => ?length, fun changed => ?front, fun changed => ?back⟩
    case length =>
      cases lengthMoves_of_execDoes coherent does with
      | kept same => exact absurd same changed
      | cleared store capacity e zero => exact .inr (.inl ⟨store, capacity, e ▸ hi, zero⟩)
      | pushed d e up =>
        have issued : Issues s (.pushBack d) ∨ Issues s (.pushFront d) := by rcases e with rfl | rfl <;> simp [hi]
        exact .inr (.inr (.inl ⟨⟨d, issued⟩, up⟩))
      | popped e down =>
        have issued : Issues s .popBack ∨ Issues s .popFront := by rcases e with rfl | rfl <;> simp [hi]
        exact .inr (.inr (.inr (.inr ⟨issued, down⟩)))
    case front =>
      cases frontMoves_of_execDoes coherent does with
      | kept same => exact absurd same changed
      | cleared store capacity e zero => exact .inr (.inl ⟨store, capacity, e ▸ hi, zero⟩)
      | retreats d e value => exact .inr (.inr (.inl ⟨d, e ▸ hi, value⟩))
      | advances e value => exact .inr (.inr (.inr ⟨e ▸ hi, value⟩))
    case back =>
      cases backMoves_of_execDoes coherent does with
      | kept same => exact absurd same changed
      | cleared store capacity e zero => exact .inr (.inl ⟨store, capacity, e ▸ hi, zero⟩)
      | advances d e value => exact .inr (.inr (.inl ⟨.inl ⟨d, e ▸ hi⟩, value⟩))
      | retreats e value => exact .inr (.inr (.inr ⟨e ▸ hi, value⟩))

end Sys2Proof.Proofs
end

section
/-! PROOFS. What each command does when it succeeds, and what it leaves alone (`40_ringbuffer_ops.md` sections 2 to 6,
`41_receiver_ops.md` section 1). -/

namespace Sys2Proof.Machine

open Sys2Proof

/-! ### The flags by `LENGTH` (R32) -/

theorem fullFlag_iff (s : State) :
    fullFlag s = true ↔ s.constructed = true ∧ s.length.toNat = s.capacity.toNat := by
  simp [fullFlag_eq, BitVec.toNat_inj]

theorem emptyFlag_iff (s : State) : emptyFlag s = true ↔ s.constructed = true ∧ s.length.toNat = 0 := by
  rw [emptyFlag_eq, Bool.and_eq_true, decide_eq_true_eq, ← BitVec.toNat_inj]
  rfl

/-- The flags after a push. -/
theorem flags_of_length_succ {s t : State} (hc : t.constructed = true) (hcap : t.capacity = s.capacity)
    (hl : t.length.toNat = s.length.toNat + 1) :
    emptyFlag t = false ∧ (fullFlag t = true ↔ s.length.toNat + 1 = s.capacity.toNat) := by
  rw [← Bool.not_eq_true, emptyFlag_iff, fullFlag_iff, hl, hcap]
  exact ⟨fun ⟨_, zero⟩ => Nat.succ_ne_zero _ zero, ⟨And.right, fun e => ⟨hc, e⟩⟩⟩

/-- The flags after a pop. -/
theorem flags_of_length_pred {s t : State} (hc : t.constructed = true) (hcap : t.capacity = s.capacity)
    (hle : s.length.toNat ≤ s.capacity.toNat) (hl : t.length.toNat + 1 = s.length.toNat) :
    fullFlag t = false ∧ (emptyFlag t = true ↔ s.length.toNat = 1) := by
  rw [← Bool.not_eq_true, emptyFlag_iff, fullFlag_iff, hcap, ← hl]
  refine ⟨fun ⟨_, eq⟩ => ?_, ⟨fun ⟨_, zero⟩ => by rw [zero], fun one => ⟨hc, Nat.succ.inj one⟩⟩⟩
  omega

/-! ### `CONSTRUCT` (R131) -/

theorem exec_construct_of_legal {store : Addr} {capacity : Byte} (hc : capacity ≠ 0#8) (hs : store ≠ 0x0000#16)
    (s : State) : exec (.construct store capacity) s = .next (respond .ok 0x00#8 (newQueue store capacity s)) := by
  rw [exec_construct, execConstruct, if_neg hc, if_neg hs]

/-! ### Pushes, pops, peeks and predicates where the checks pass (R219) -/

section Passed

variable {s : State} (h : s.constructed = true)
include h

theorem pushChecked_of_room (hl : s.length ≠ s.capacity) (place : State → State) :
    pushChecked place s = respond .ok 0x00#8 (place s) :=
  (if_neg (ne_false_of_eq_true h)).trans (if_neg hl)

theorem takeChecked_of_nonempty (hl : s.length ≠ 0#8) (take : State → Byte × State) :
    takeChecked take s = respond .ok (take s).1 (take s).2 :=
  (if_neg (ne_false_of_eq_true h)).trans (if_neg hl)

theorem answerChecked_of_constructed (p : Bool) :
    answerChecked p s = respond .ok (if p then 0x01#8 else 0x00#8) s :=
  if_neg (ne_false_of_eq_true h)

theorem exec_isFull_of_constructed :
    exec .isFull s = .next (respond .ok (if s.length = s.capacity then 0x01#8 else 0x00#8) s) := by
  change Host.Outcome.next (answerChecked _ s) = _
  rw [answerChecked_of_constructed h]
  simp only [beq_iff_eq]

theorem exec_isEmpty_of_constructed :
    exec .isEmpty s = .next (respond .ok (if s.length = 0#8 then 0x01#8 else 0x00#8) s) := by
  change Host.Outcome.next (answerChecked _ s) = _
  rw [answerChecked_of_constructed h]
  simp only [beq_iff_eq]

theorem exec_pushBack_of_room (hl : s.length ≠ s.capacity) (d : Byte) :
    exec (.pushBack d) s = .next (respond .ok 0x00#8 (placeBack d s)) :=
  congrArg _ (pushChecked_of_room h hl _)

theorem exec_pushFront_of_room (hl : s.length ≠ s.capacity) (d : Byte) :
    exec (.pushFront d) s = .next (respond .ok 0x00#8 (placeFront d s)) :=
  congrArg _ (pushChecked_of_room h hl _)

theorem exec_popBack_of_nonempty (hl : s.length ≠ 0#8) :
    exec .popBack s = .next (respond .ok (takeBack s).1 (takeBack s).2) :=
  congrArg _ (takeChecked_of_nonempty h hl _)

theorem exec_popFront_of_nonempty (hl : s.length ≠ 0#8) :
    exec .popFront s = .next (respond .ok (takeFront s).1 (takeFront s).2) :=
  congrArg _ (takeChecked_of_nonempty h hl _)

theorem exec_peekFront_of_nonempty (hl : s.length ≠ 0#8) :
    exec .peekFront s = .next (respond .ok (lookFront s).1 (lookFront s).2) :=
  congrArg _ (takeChecked_of_nonempty h hl _)

theorem exec_peekBack_of_nonempty (hl : s.length ≠ 0#8) :
    exec .peekBack s = .next (respond .ok (lookBack s).1 (lookBack s).2) :=
  congrArg _ (takeChecked_of_nonempty h hl _)

end Passed

theorem ne_of_room {s : State} (h : s.length.toNat < s.capacity.toNat) : s.length ≠ s.capacity :=
  fun e => Nat.ne_of_lt h (congrArg BitVec.toNat e)

theorem toNat_pos_of_le {l c : Byte} (hl : l ≠ 0#8) (hle : l.toNat ≤ c.toNat) : 0 < c.toNat :=
  Nat.lt_of_lt_of_le (byte_pos_of_ne hl) hle

/-- A count goes down by one (R134, R135). -/
theorem toReg8_pred_add_one {l : Byte} (hl : l ≠ 0#8) : (toReg8 (l.toNat - 1)).toNat + 1 = l.toNat := by
  rw [toReg8_pred, Nat.sub_one_add_one (byte_pos_of_ne hl).ne']

/-- The answer of a predicate (R136, R137). -/
theorem answered_predicate (p : Prop) [Decidable p] (s : State) :
    Answered s (respond .ok (if p then 0x01#8 else 0x00#8) s) (if p then 0x0001#16 else 0x0000#16) := by
  split <;> exact answered_respond_ok _ s

/-! ### `RX_START` (R172) -/

section RxStart

variable {s : State}

theorem exec_rxStart (s : State) : exec .rxStart s = execRxStart s := rfl

theorem exec_rxStart_of_not_constructed (h : s.constructed = false) :
    exec .rxStart s = .next (respond .notConstructed 0x00#8 s) :=
  if_pos h

theorem exec_rxStart_of_halted (h : s.constructed = true)
    (hf : s.rxState = .faulted ∧ s.cfg.faultPolicy = .halt) :
    exec .rxStart s = .next (respond .halted 0x00#8 s) :=
  (if_neg (ne_false_of_eq_true h)).trans (if_pos hf)

theorem exec_rxStart_of_badThreshold (h : s.constructed = true)
    (hf : ¬(s.rxState = .faulted ∧ s.cfg.faultPolicy = .halt))
    (ht : s.threshold = 0#8 ∨ s.capacity.toNat < s.threshold.toNat) :
    exec .rxStart s = .next (respond .badThreshold 0x00#8 s) :=
  (if_neg (ne_false_of_eq_true h)).trans ((if_neg hf).trans (if_pos ht))

theorem exec_rxStart_of_accepted (h : s.constructed = true)
    (hf : ¬(s.rxState = .faulted ∧ s.cfg.faultPolicy = .halt))
    (ht : ¬(s.threshold = 0#8 ∨ s.capacity.toNat < s.threshold.toNat)) :
    exec .rxStart s = .next (startSession s) :=
  (if_neg (ne_false_of_eq_true h)).trans ((if_neg hf).trans (if_neg ht))

theorem not_halted_of_restartable (h : s.rxState = .faulted → s.cfg.faultPolicy = .restartable) :
    ¬(s.rxState = .faulted ∧ s.cfg.faultPolicy = .halt) := by
  rintro ⟨faulted, halt⟩
  cases halt.symm.trans (h faulted)

theorem threshold_legal (hpos : 0 < s.threshold.toNat) (hle : s.threshold.toNat ≤ s.capacity.toNat) :
    ¬(s.threshold = 0#8 ∨ s.capacity.toNat < s.threshold.toNat) := by
  rintro (zero | lt)
  · rw [zero] at hpos
    exact absurd hpos (by decide)
  · exact absurd hle (Nat.not_le_of_lt lt)

end RxStart

/-! ### `RDREG` (R176, R40) -/

theorem exec_rdreg_of_some {n v : Byte} {s : State} (h : regRead n s = some v) :
    exec (.rdreg n) s = .next (respond .ok v s) := by
  change execRdreg n s = _
  rw [execRdreg, h]

theorem exec_rdreg_of_none {n : Byte} {s : State} (h : regRead n s = none) :
    exec (.rdreg n) s = .next (respond .badRegister 0x00#8 s) := by
  change execRdreg n s = _
  rw [execRdreg, h]

/-- The numbers from 0x0C on are reserved (R40). -/
theorem regRead_of_reserved {n : Byte} (h : 0x0C ≤ n.toNat) (s : State) : regRead n s = none := by
  unfold regRead
  split
  case h_13 => rfl
  all_goals omega

theorem lowByte_eq (a : Addr) : a.extractLsb' 0 8 = BitVec.ofNat 8 (a.toNat % 256) := by
  apply BitVec.eq_of_toNat_eq
  simp

theorem highByte_eq (a : Addr) : a.extractLsb' 8 8 = BitVec.ofNat 8 (a.toNat / 256) := by
  apply BitVec.eq_of_toNat_eq
  simp [Nat.shiftRight_eq_div_pow]

theorem faultByte_eq (m : BitVec 4) : faultByte m = BitVec.ofNat 8 m.toNat := by
  apply BitVec.eq_of_toNat_eq
  have := m.isLt
  rw [faultByte, toNat_join, BitVec.toNat_ofNat, BitVec.toNat_ofNat]
  omega

/-- The REG space, number by number (R40). -/
def regSpace (s : State) : List (Byte × Byte) :=
  [(0x00#8, s.capacity), (0x01#8, s.length), (0x02#8, s.front), (0x03#8, s.back),
    (0x04#8, BitVec.ofNat 8 (s.storeBase.toNat % 256)), (0x05#8, BitVec.ofNat 8 (s.storeBase.toNat / 256)),
    (0x06#8, s.threshold), (0x07#8, s.delim), (0x08#8, statusByte s), (0x09#8, BitVec.ofNat 8 s.fault.toNat),
    (0x0A#8, s.cfg.resumeCode), (0x0B#8, s.cfg.pauseCode)]

theorem regRead_regSpace {s : State} {p : Byte × Byte} (h : p ∈ regSpace s) : regRead p.1 s = some p.2 := by
  rw [regSpace, ← lowByte_eq, ← highByte_eq, ← faultByte_eq] at h
  simp only [List.mem_cons, List.not_mem_nil, or_false] at h
  rcases h with rfl | rfl | rfl | rfl | rfl | rfl | rfl | rfl | rfl | rfl | rfl | rfl
  all_goals rfl

/-! ### The sequencer's steps (R183 to R185) -/

theorem seqResume_of_ready {s : State} (h : s.sinkReady = true) :
    seqResume s = { snkWrite s.cfg.resumeCode s with phase := .byte } :=
  if_pos h

theorem seqPause_of_ready {s : State} (h : s.sinkReady = true) :
    seqPause s =
      respond .ok 0x00#8 { snkWrite s.cfg.pauseCode s with rxState := .completed, phase := .none } :=
  if_pos h

/-- The stop conditions after a push, in the registers before it (R184 step 3). -/
theorem stopCondition_placeBack {s : State} (hl : s.length.toNat < s.capacity.toNat) (d : Byte) :
    stopCondition d (placeBack d s) = decide (d = s.delim ∨ s.threshold.toNat ≤ s.length.toNat + 1) := by
  rw [stopCondition, placeBack_delim, placeBack_threshold, placeBack_length, toReg8_succ hl, Bool.decide_or]
  rfl

/-- `s` once `SEQ_BYTE` has taken an item without diagnostics and pushed its byte `d`; `rest` is what SOURCE still
offers. -/
def byteReceived (d : Byte) (rest : List SrcItem) (s : State) : State :=
  { placeBack d (srcTake rest { s with moves := s.moves.tail }) with
    phase := if d = s.delim ∨ s.threshold.toNat ≤ s.length.toNat + 1 then .pause else .byte }

theorem step_eq_byteReceived {s : State} {it : SrcItem} {rest : List SrcItem} (hp : InPhase s .byte)
    (hs : s.source = it :: rest) (hc : it.clean = true) (hl : s.length.toNat < s.capacity.toNat) :
    step s = .next (byteReceived it.data rest s) := by
  rw [step_eq_receiveItem hp hs]
  rcases receiveItem_faults_or_pushes it (srcTake rest { s with moves := s.moves.tail }) with ⟨hf, _⟩ | ⟨_, _, e⟩
  · rcases hf with dirty | isFull
    · cases hc.symm.trans dirty
    · exact absurd isFull (ne_of_room hl)
  · have stop := stopCondition_placeBack (s := srcTake rest { s with moves := s.moves.tail }) hl it.data
    rw [e, stop]
    simp [byteReceived, hp.phase]

section ByteReceived

variable (d : Byte) (rest : List SrcItem) (s : State)

@[simp] theorem byteReceived_capacity : (byteReceived d rest s).capacity = s.capacity := placeBack_capacity d _
@[simp] theorem byteReceived_front : (byteReceived d rest s).front = s.front := placeBack_front d _
@[simp] theorem byteReceived_storeBase : (byteReceived d rest s).storeBase = s.storeBase := placeBack_storeBase d _
@[simp] theorem byteReceived_constructed :
    (byteReceived d rest s).constructed = s.constructed :=
  placeBack_constructed d _
@[simp] theorem byteReceived_threshold : (byteReceived d rest s).threshold = s.threshold := placeBack_threshold d _
@[simp] theorem byteReceived_delim : (byteReceived d rest s).delim = s.delim := placeBack_delim d _
@[simp] theorem byteReceived_rxState : (byteReceived d rest s).rxState = s.rxState := placeBack_rxState d _
@[simp] theorem byteReceived_fault : (byteReceived d rest s).fault = s.fault := placeBack_fault d _
@[simp] theorem byteReceived_cfg : (byteReceived d rest s).cfg = s.cfg := placeBack_cfg d _
@[simp] theorem byteReceived_rst : (byteReceived d rest s).rst = s.rst := placeBack_rst d _
@[simp] theorem byteReceived_sinkReady : (byteReceived d rest s).sinkReady = s.sinkReady := placeBack_sinkReady d _
@[simp] theorem byteReceived_commands : (byteReceived d rest s).commands = s.commands := placeBack_commands d _
@[simp] theorem byteReceived_responses : (byteReceived d rest s).responses = s.responses := placeBack_responses d _
@[simp] theorem byteReceived_sink : (byteReceived d rest s).sink = s.sink := placeBack_sink d _
@[simp] theorem byteReceived_draws : (byteReceived d rest s).draws = s.draws := placeBack_draws d _
@[simp] theorem byteReceived_hostKept : (byteReceived d rest s).hostKept = s.hostKept := placeBack_hostKept d _
@[simp] theorem byteReceived_length :
    (byteReceived d rest s).length = toReg8 (s.length.toNat + 1) :=
  placeBack_length d _
@[simp] theorem byteReceived_back : (byteReceived d rest s).back = advance s.capacity s.back := placeBack_back d _
@[simp] theorem byteReceived_source : (byteReceived d rest s).source = rest := placeBack_source d _
@[simp] theorem byteReceived_moves : (byteReceived d rest s).moves = s.moves.tail := placeBack_moves d _
@[simp] theorem byteReceived_taken : (byteReceived d rest s).taken = s.taken + 1 := placeBack_taken d _
@[simp] theorem byteReceived_store :
    (byteReceived d rest s).store = Memory.set (slot s.storeBase s.back).toNat d s.store :=
  placeBack_store d _
@[simp] theorem byteReceived_accesses :
    (byteReceived d rest s).accesses = s.accesses ++ [.write (slot s.storeBase s.back) d] :=
  placeBack_accesses d _
@[simp] theorem byteReceived_pushed :
    (byteReceived d rest s).pushed = Memory.set (slot s.storeBase s.back).toNat d s.pushed :=
  placeBack_pushed d _

theorem byteReceived_phase_eq :
    (byteReceived d rest s).phase =
      if d = s.delim ∨ s.threshold.toNat ≤ s.length.toNat + 1 then .pause else .byte := rfl

theorem wroteOne_byteReceived : WroteOne s (byteReceived d rest s) (slot s.storeBase s.back) d :=
  wroteOne_of_fields (byteReceived_store d rest s) (byteReceived_accesses d rest s) (byteReceived_pushed d rest s)
    (byteReceived_hostKept d rest s)

theorem sameEnvironment_byteReceived :
    SameEnvironment { s with moves := s.moves.tail } (byteReceived d rest s) :=
  ⟨byteReceived_cfg d rest s, byteReceived_rst d rest s, byteReceived_sinkReady d rest s,
    byteReceived_commands d rest s, byteReceived_moves d rest s⟩

variable {s} in
theorem byteReceived_length_toNat (hl : s.length.toNat < s.capacity.toNat) :
    (byteReceived d rest s).length.toNat = s.length.toNat + 1 := by
  rw [byteReceived_length, toReg8_succ hl]

variable {s} in
theorem byteReceived_back_toNat (hl : s.length.toNat < s.capacity.toNat) :
    (byteReceived d rest s).back.toNat = (s.back.toNat + 1) % s.capacity.toNat := by
  rw [byteReceived_back, advance_toNat (Nat.zero_lt_of_lt hl)]

end ByteReceived

end Sys2Proof.Machine

namespace Sys2Proof.Proofs

open Sys2Proof Sys2Proof.Machine

/-- Settles O32: the checks pass, and `newQueue` loads the registers; LENGTH 0 and a capacity above 0 give the flags. -/
theorem constructMakesAnEmptyQueue : Obligations.ConstructMakesAnEmptyQueue := by
  intro store capacity s hc hs
  refine ⟨_, exec_construct_of_legal hc hs s, ?answered, rfl, rfl, rfl, rfl, rfl, rfl, ?empty, ?notFull, ?queue,
    rfl, rfl, ⟨rfl, rfl, rfl, rfl, rfl⟩, sameStore_of_fields rfl rfl, ⟨rfl, rfl, rfl⟩, ⟨rfl, rfl, rfl, rfl, rfl⟩⟩
  case answered => exact ⟨rfl, rfl⟩
  case empty => exact (emptyFlag_iff _).mpr ⟨rfl, rfl⟩
  case notFull =>
    rw [← Bool.not_eq_true, fullFlag_iff]
    exact fun ⟨_, eq⟩ => (byte_pos_of_ne hc).ne eq
  case queue => exact (queue_eq_nil _).mpr rfl

/-- Settles O36: the checks pass, and `placeBack` writes the slot of the old `BACK` and moves `BACK` and `LENGTH`. -/
theorem pushBackWritesThenAdvances : Obligations.PushBackWritesThenAdvances := by
  intro data s hc hl
  have length : (placeBack data s).length.toNat = s.length.toNat + 1 := toReg8_succ hl
  obtain ⟨notEmpty, full⟩ := flags_of_length_succ (s := s) (t := respond .ok 0x00#8 (placeBack data s)) hc rfl length
  exact ⟨_, exec_pushBack_of_room hc (ne_of_room hl) data, ⟨rfl, rfl⟩,
    wroteOne_of_fields rfl rfl rfl rfl, advance_toNat (Nat.zero_lt_of_lt hl) _, length, rfl, rfl, rfl, rfl, notEmpty,
    full, ⟨rfl, rfl, rfl, rfl, rfl⟩, ⟨rfl, rfl, rfl⟩, ⟨rfl, rfl, rfl, rfl, rfl⟩⟩

/-- Settles O37: as `PUSH_BACK`, with the slot of the retreated `FRONT`. -/
theorem pushFrontRetreatsThenWrites : Obligations.PushFrontRetreatsThenWrites := by
  intro data s hc hl
  have length : (placeFront data s).length.toNat = s.length.toNat + 1 := toReg8_succ hl
  obtain ⟨notEmpty, full⟩ := flags_of_length_succ (s := s) (t := respond .ok 0x00#8 (placeFront data s)) hc rfl length
  exact ⟨_, exec_pushFront_of_room hc (ne_of_room hl) data, ⟨rfl, rfl⟩,
    wroteOne_of_fields rfl rfl rfl rfl, rfl, retreat_toNat (Nat.zero_lt_of_lt hl) _, length, rfl, rfl, rfl, rfl,
    notEmpty, full, ⟨rfl, rfl, rfl, rfl, rfl⟩, ⟨rfl, rfl, rfl⟩, ⟨rfl, rfl, rfl, rfl, rfl⟩⟩

/-- Settles O38: the checks pass, and `takeBack` reads the slot of the retreated `BACK`. -/
theorem popBackRetreatsThenReads : Obligations.PopBackRetreatsThenReads := by
  intro s hc hl hle
  have length : (takeBack s).2.length.toNat + 1 = s.length.toNat := toReg8_pred_add_one hl
  obtain ⟨notFull, empty⟩ :=
    flags_of_length_pred (s := s) (t := respond .ok (takeBack s).1 (takeBack s).2) hc rfl hle length
  exact ⟨_, exec_popBack_of_nonempty hc hl, ⟨rfl, rfl⟩, readOne_of_fields rfl rfl ⟨rfl, rfl⟩,
    rfl, retreat_toNat (toNat_pos_of_le hl hle) _, length, rfl, rfl, rfl, rfl, notFull, empty,
    ⟨rfl, rfl, rfl, rfl, rfl⟩, ⟨rfl, rfl, rfl⟩, ⟨rfl, rfl, rfl, rfl, rfl⟩⟩

/-- Settles O39: as `POP_BACK`, with the slot of the old `FRONT`. -/
theorem popFrontReadsThenAdvances : Obligations.PopFrontReadsThenAdvances := by
  intro s hc hl hle
  have length : (takeFront s).2.length.toNat + 1 = s.length.toNat := toReg8_pred_add_one hl
  obtain ⟨notFull, empty⟩ :=
    flags_of_length_pred (s := s) (t := respond .ok (takeFront s).1 (takeFront s).2) hc rfl hle length
  exact ⟨_, exec_popFront_of_nonempty hc hl, ⟨rfl, rfl⟩,
    readOne_of_fields rfl rfl ⟨rfl, rfl⟩, advance_toNat (toNat_pos_of_le hl hle) _, length, rfl, rfl, rfl, rfl, notFull,
    empty, ⟨rfl, rfl, rfl, rfl, rfl⟩, ⟨rfl, rfl, rfl⟩, ⟨rfl, rfl, rfl, rfl, rfl⟩⟩

/-- Settles O40: behind the first check both only answer. -/
theorem predicatesAnswerByLengthAlone : Obligations.PredicatesAnswerByLengthAlone := by
  exact fun s hc => ⟨⟨_, exec_isFull_of_constructed hc, answered_predicate _ s, onlyAnswered_respond _ _ s⟩,
    ⟨_, exec_isEmpty_of_constructed hc, answered_predicate _ s, onlyAnswered_respond _ _ s⟩⟩

/-- Settles O41: a peek reads the slot its pop reads, and moves nothing. -/
theorem peeksAnswerWhatThePopWould : Obligations.PeeksAnswerWhatThePopWould := by
  intro s hc hl hle
  constructor
  · exact ⟨_, _, exec_peekFront_of_nonempty hc hl, exec_popFront_of_nonempty hc hl, rfl,
      ⟨rfl, rfl⟩, readOne_of_fields rfl rfl ⟨rfl, rfl⟩, ⟨rfl, rfl, rfl, rfl, rfl, rfl⟩,
      ⟨rfl, rfl, rfl, rfl, rfl⟩, ⟨rfl, rfl, rfl⟩, ⟨rfl, rfl, rfl, rfl, rfl⟩⟩
  · exact ⟨_, _, exec_peekBack_of_nonempty hc hl, exec_popBack_of_nonempty hc hl, rfl,
      ⟨rfl, rfl⟩, readOne_of_fields rfl rfl ⟨rfl, rfl⟩, ⟨rfl, rfl, rfl, rfl, rfl, rfl⟩,
      ⟨rfl, rfl, rfl, rfl, rfl⟩, ⟨rfl, rfl, rfl⟩, ⟨rfl, rfl, rfl, rfl, rfl⟩⟩

/-- Settles O46: `RX_CONFIG` checks nothing. -/
theorem rxConfigLoadsThresholdAndDelimiter : Obligations.RxConfigLoadsThresholdAndDelimiter :=
  fun _ _ _ => ⟨_, rfl, ⟨rfl, rfl⟩, rfl, rfl, rfl, rfl, rfl, ⟨rfl, rfl, rfl, rfl, rfl, rfl⟩,
    sameStore_of_fields rfl rfl, ⟨rfl, rfl⟩, ⟨rfl, rfl, rfl⟩, ⟨rfl, rfl, rfl, rfl, rfl⟩⟩

/-- Settles O47: the three checks pass, and `startSession` moves `STATE`, `FAULT` and `PHASE`. -/
theorem rxStartBeginsASession : Obligations.RxStartBeginsASession := by
  intro s hc hf hpos hle
  exact ⟨_, exec_rxStart_of_accepted hc (not_halted_of_restartable hf) (threshold_legal hpos hle), rfl, rfl, rfl, rfl,
    rfl, rfl, rfl, ⟨rfl, rfl, rfl, rfl, rfl, rfl⟩, sameStore_of_fields rfl rfl, ⟨rfl, rfl⟩, ⟨rfl, rfl, rfl⟩,
    ⟨rfl, rfl, rfl, rfl, rfl⟩⟩

/-- Settles O48: one case for each check, in their order; a check that fails only answers. -/
theorem rxStartErrorsAreReportedInOrder : Obligations.RxStartErrorsAreReportedInOrder := by
  refine fun s => ⟨fun hc => ?notConstructed, fun hc faulted halt => ?halted, fun hc hf ht => ?badThreshold⟩
  case notConstructed =>
    exact ⟨_, exec_rxStart_of_not_constructed hc, answered_respond _ _ s, onlyAnswered_respond _ _ s⟩
  case halted =>
    exact ⟨_, exec_rxStart_of_halted hc ⟨faulted, halt⟩, answered_respond _ _ s, onlyAnswered_respond _ _ s⟩
  case badThreshold =>
    exact ⟨_, exec_rxStart_of_badThreshold hc hf ht, answered_respond _ _ s, onlyAnswered_respond _ _ s⟩

/-- Settles O49: `RDREG` answers what `regRead` finds, and only answers. -/
theorem rdregAnswersEveryRegister : Obligations.RdregAnswersEveryRegister := by
  refine fun s => ⟨fun p hp => ?listed, fun n hn => ?reserved⟩
  case listed =>
    exact ⟨_, exec_rdreg_of_some (regRead_regSpace hp), answered_respond_ok p.2 s, onlyAnswered_respond _ _ s⟩
  case reserved =>
    exact ⟨_, exec_rdreg_of_none (regRead_of_reserved hn s), answered_respond _ _ s, onlyAnswered_respond _ _ s⟩

/-- Settles O51: in `PH_RESUME` the step is `SEQ_RESUME`, which waits for SINK. -/
theorem resumeByteOpensTheSession : Obligations.ResumeByteOpensTheSession := by
  refine fun s hp => ⟨srcReady_of_phase_ne (hp.phase_ne (by decide)), fun hr => ?ready, fun hr => ?waits⟩
  case ready =>
    exact ⟨_, (step_of_phase_resume hp).trans (congrArg _ (seqResume_of_ready hr)), rfl, rfl, rfl, rfl, rfl, rfl,
      ⟨rfl, rfl, rfl, rfl, rfl, rfl⟩, sameStore_of_fields rfl rfl, ⟨rfl, rfl⟩, rfl, rfl, rfl, rfl,
      ⟨rfl, rfl, rfl, rfl, rfl⟩⟩
  case waits => exact (step_of_phase_resume hp).trans (congrArg _ (seqResume_of_not_ready hr))

/-- Settles O52: the step is `byteReceived`, whose push is that of `PUSH_BACK`. -/
theorem byteIsPushedAndStopsAreDetected : Obligations.ByteIsPushedAndStopsAreDetected := by
  intro s it rest hp hs hclean hc hl
  have received := step_eq_byteReceived hp hs hclean hl
  have pushed := exec_pushBack_of_room hc (ne_of_room hl) it.data
  refine ⟨_, _, received, pushed, ?ring, byteReceived_store _ _ _, wroteOne_byteReceived _ _ _,
    byteReceived_back_toNat _ _ hl, byteReceived_length_toNat _ _ hl, byteReceived_front _ _ _,
    byteReceived_capacity _ _ _, byteReceived_storeBase _ _ _, byteReceived_constructed _ _ _,
    byteReceived_source _ _ _, byteReceived_taken _ _ _, byteReceived_phase_eq _ _ _, byteReceived_rxState _ _ _,
    byteReceived_fault _ _ _, byteReceived_threshold _ _ _, byteReceived_delim _ _ _, byteReceived_sink _ _ _,
    byteReceived_responses _ _ _, byteReceived_draws _ _ _, sameEnvironment_byteReceived _ _ _⟩
  case ring =>
    exact ⟨byteReceived_capacity _ _ _, byteReceived_length _ _ _, byteReceived_front _ _ _, byteReceived_back _ _ _,
      byteReceived_storeBase _ _ _, byteReceived_constructed _ _ _⟩

/-- Settles O54: in `PH_PAUSE` the step is `SEQ_PAUSE`, which waits for SINK. -/
theorem pauseByteCompletesTheSession : Obligations.PauseByteCompletesTheSession := by
  refine fun s hp => ⟨fun hr => ?ready, fun hr => ?waits⟩
  case ready =>
    exact ⟨_, (step_of_phase_pause hp).trans (congrArg _ (seqPause_of_ready hr)), rfl, rfl, rfl,
      ⟨rfl, rfl⟩, rfl, rfl, rfl, ⟨rfl, rfl, rfl, rfl, rfl, rfl⟩, sameStore_of_fields rfl rfl,
      ⟨rfl, rfl⟩, rfl, rfl, ⟨rfl, rfl, rfl, rfl, rfl⟩⟩
  case waits => exact (step_of_phase_pause hp).trans (congrArg _ (seqPause_of_not_ready hr))

end Sys2Proof.Proofs
end

section
/-! PROOFS. STORE and the model's records of the borrow (`20_memory.md` sections 1 and 2, `10_state.md` R35 INV5,
`70_reset_and_hazards.md` R250). -/

namespace Sys2Proof.Machine

open Sys2Proof

/-! ### Slots of the region, and of the queue -/

/-- A slot below the capacity is in the borrowed region (R61). -/
theorem inRegion_slot {s : State} {i : Byte} (h : i.toNat < s.capacity.toNat) : inRegion s (slot s.storeBase i) :=
  ⟨i, h, rfl⟩

/-- The slot of an element of the queue. -/
def LiveSlot (s : State) (a : Addr) : Prop :=
  s.constructed = true ∧ ∃ k, k < s.length.toNat ∧ liveSlot s k = a

theorem LiveSlot.inRegion {s : State} {a : Addr} (h : Coherent s) (ha : LiveSlot s a) : inRegion s a := by
  obtain ⟨hc, k, _, rfl⟩ := ha
  exact (isSlot_iff_inRegion s _).mp (h.isSlot_liveSlot hc k)

theorem LiveSlot.written {s : State} {a : Addr} (h : Coherent s) (ha : LiveSlot s a) :
    ∃ w, Memory.get? a.toNat s.store = some w := by
  obtain ⟨hc, k, hk, rfl⟩ := ha
  exact (h.inv5 hc).written k hk

theorem liveSlot_front {s : State} (h : Coherent s) (hc : s.constructed = true) (hl : s.length ≠ 0#8) :
    LiveSlot s (slot s.storeBase s.front) :=
  ⟨hc, 0, byte_pos_of_ne hl, h.front_slot hc⟩

theorem liveSlot_retreated_back {s : State} (h : Coherent s) (hc : s.constructed = true) (hl : s.length ≠ 0#8) :
    LiveSlot s (slot s.storeBase (retreat s.capacity s.back)) :=
  ⟨hc, s.length.toNat - 1, Nat.sub_one_lt (byte_pos_of_ne hl).ne', h.last_slot hc hl⟩

/-! ### What a step does with STORE and the records -/

/-- A successful `CONSTRUCT` is issued. -/
def IssuesConstruct (s : State) : Prop :=
  ∃ store capacity, Issues s (.construct store capacity) ∧ store ≠ 0x0000#16 ∧ capacity ≠ 0#8

/-- What can push a byte: a push command or `SEQ_BYTE`. -/
def PushesByte (s : State) : Prop :=
  (∃ d, Issues s (.pushBack d) ∨ Issues s (.pushFront d)) ∨ InPhase s .byte

/-- What a step does with STORE: HOST writes a byte; nothing; one read by the block, of an element of the queue; or
one write by the block, a push into the region. A push is recorded, and the records start anew by reset and
`CONSTRUCT` alone. -/
inductive StoreStep (s t : State) : Prop
  | host (a : Addr) (v : Byte) (rest : List EnvMove) (move : s.moves = .hostWrite a v :: rest)
      (store : t.store = Memory.set a.toNat v s.store) (accesses : t.accesses = s.accesses)
  | untouched (noHost : ∀ a v rest, s.moves ≠ .hostWrite a v :: rest) (store : t.store = s.store)
      (accesses : t.accesses = s.accesses)
      (record : (clockEdge s = true ∧ s.rst = true) ∨ IssuesConstruct s ∨ SameRecord s t)
  | read (a : Addr) (noHost : ∀ a v rest, s.moves ≠ .hostWrite a v :: rest) (store : t.store = s.store)
      (accesses : t.accesses = s.accesses ++ [.read a (Memory.read s.store a)]) (record : SameRecord s t)
      (live : Coherent s → LiveSlot s a)
  | write (a : Addr) (v : Byte) (noHost : ∀ a v rest, s.moves ≠ .hostWrite a v :: rest)
      (store : t.store = Memory.set a.toNat v s.store) (accesses : t.accesses = s.accesses ++ [.write a v])
      (pushes : PushesByte s) (pushed : t.pushed = Memory.set a.toNat v s.pushed) (hostKept : t.hostKept = s.hostKept)
      (region : Coherent s → inRegion s a)

/-- At a clock edge it is the block that moves. -/
theorem no_hostWrite_of_clockEdge {s : State} (h : clockEdge s = true) (a : Addr) (v : Byte) (rest : List EnvMove) :
    s.moves ≠ .hostWrite a v :: rest :=
  fun e => by cases (clockEdge_of_move e (by simp)).symm.trans h

theorem storeStep_of_execDoes {s t : State} {i : Instr} (hp : InPhase s .none) (hi : Issues s i)
    (hd : ExecDoes (commandTaken s) i t) : StoreStep s t := by
  have noHost := no_hostWrite_of_clockEdge hp.edge
  cases hd with
  | answers _ _ _ _ | answersAny _ _ _ _ | rxConfig _ _ | rxStart _ _ _ =>
    exact .untouched noHost rfl rfl (.inr (.inr ⟨rfl, rfl⟩))
  | construct store capacity hs hc =>
    exact .untouched noHost rfl rfl (.inr (.inl ⟨store, capacity, hi, hs, hc⟩))
  | pushBack d hc _ =>
    exact .write _ d noHost rfl rfl (.inl ⟨d, .inl hi⟩) rfl rfl fun h => inRegion_slot (h.inv3 hc).2
  | pushFront d hc _ =>
    exact .write _ d noHost rfl rfl (.inl ⟨d, .inr hi⟩) rfl rfl fun h => inRegion_slot (retreat_lt (h.inv1 hc).1 _)
  | popBack hc hl | peekBack hc hl =>
    exact .read _ noHost rfl rfl ⟨rfl, rfl⟩ fun h => liveSlot_retreated_back h hc hl
  | popFront hc hl | peekFront hc hl =>
    exact .read _ noHost rfl rfl ⟨rfl, rfl⟩ fun h => liveSlot_front h hc hl

theorem storeStep_of_envMove {s : State} {m : EnvMove} {rest : List EnvMove} (hm : s.moves = m :: rest) :
    StoreStep s (envMove m { s with moves := rest }) := by
  cases m with
  | hostWrite a v => exact .host a v rest hm rfl rfl
  | clock | setRst _ | setSinkReady _ | offerCommand _ | offerItem _ =>
    exact .untouched (by simp [hm]) rfl rfl (.inr (.inr ⟨rfl, rfl⟩))

theorem storeStep_of_stepDoes {s t : State} (hd : StepDoes s t) : StoreStep s t := by
  cases hd with
  | environment m rest hm _ _ => exact storeStep_of_envMove hm
  | reset edge rst => exact .untouched (no_hostWrite_of_clockEdge edge) rfl rfl (.inl ⟨edge, rst⟩)
  | wait _ hp _ | illegal _ _ _ hp _ _ | resume hp _ | pause hp _ =>
    exact .untouched (no_hostWrite_of_clockEdge hp.edge) rfl rfl (.inr (.inr ⟨rfl, rfl⟩))
  | command i _ hp hi he => exact storeStep_of_execDoes hp hi (exec_does he)
  | byte it rest hp _ =>
    have noHost := no_hostWrite_of_clockEdge hp.edge
    rcases receiveItem_faults_or_pushes it (srcTake rest { s with moves := s.moves.tail }) with
      ⟨_, e⟩ | ⟨_, _, e⟩ <;> rw [e]
    · exact .untouched noHost rfl rfl (.inr (.inr ⟨rfl, rfl⟩))
    · exact .write _ it.data noHost rfl rfl (.inr hp) rfl rfl fun h =>
        inRegion_slot (h.inv3 (h.inv9 (h.receiving_of_phase hp.phase (by decide))).1).2

/-! ### What an access says of the step -/

/-- Two accounts of the one access a step made agree. -/
theorem access_inj {s t : State} {x y : StoreAccess} (hx : t.accesses = s.accesses ++ [x])
    (hy : t.accesses = s.accesses ++ [y]) : x = y :=
  List.singleton_inj.mp (List.append_cancel_left (hx.symm.trans hy))

/-- A step that made an access did not make none. -/
theorem access_ne_none {s t : State} {x : StoreAccess} (hx : t.accesses = s.accesses ++ [x]) :
    t.accesses ≠ s.accesses :=
  fun e => by simp [e] at hx

section Accesses

variable {s t : State} (h : StoreStep s t) {a : Addr} {v : Byte}
include h

theorem StoreStep.of_write_access (ha : t.accesses = s.accesses ++ [.write a v]) :
    t.store = Memory.set a.toNat v s.store ∧ PushesByte s ∧ t.pushed = Memory.set a.toNat v s.pushed ∧
      t.hostKept = s.hostKept ∧ (Coherent s → inRegion s a) := by
  cases h with
  | host _ _ _ _ _ none | untouched _ _ none _ => exact absurd none (access_ne_none ha)
  | read _ _ _ one _ _ => cases access_inj one ha
  | write _ _ _ store one pushes pushed hostKept region =>
    cases access_inj one ha
    exact ⟨store, pushes, pushed, hostKept, region⟩

theorem StoreStep.of_read_access (ha : t.accesses = s.accesses ++ [.read a v]) :
    v = Memory.read s.store a ∧ t.store = s.store ∧ (Coherent s → LiveSlot s a) := by
  cases h with
  | host _ _ _ _ _ none | untouched _ _ none _ => exact absurd none (access_ne_none ha)
  | write _ _ _ _ one _ _ _ _ => cases access_inj one ha
  | read _ _ store one _ live =>
    cases access_inj one ha
    exact ⟨rfl, store, live⟩

/-- A byte changes only by the block's write access to it or by HOST's write. -/
theorem StoreStep.read_same (hw : ∀ v, t.accesses ≠ s.accesses ++ [.write a v])
    (hh : ∀ v rest, s.moves ≠ .hostWrite a v :: rest) : Memory.read t.store a = Memory.read s.store a := by
  cases h with
  | host b v rest move store _ =>
    rw [store]
    exact Memory.read_set_other (fun e : a = b => hh v rest (e ▸ move)) _ _
  | untouched _ store _ _ => rw [store]
  | read _ _ store _ _ _ => rw [store]
  | write b v _ store one _ _ _ _ =>
    rw [store]
    exact Memory.read_set_other (fun e : a = b => hw v (e ▸ one)) _ _

end Accesses

theorem read_of_hostWrite {s t : State} {a : Addr} {v : Byte} {rest : List EnvMove} (h : step s = .next t)
    (hm : s.moves = .hostWrite a v :: rest) : Memory.read t.store a = v := by
  cases (step_of_move hm (by simp)).symm.trans h
  exact Memory.read_set_same a v s.store

/-! ### HOST's write and the queue -/

/-- Behind the borrowed region HOST writes no element of the queue. -/
theorem queue_hostWrite_of_not_inRegion {s : State} (h : Coherent s) {a : Addr} (ha : ¬ inRegion s a) (v : Byte) :
    queue (hostWrite a v s) = queue s := by
  cases hc : s.constructed with
  | false =>
    obtain ⟨_, length, _⟩ := h.inv6 hc
    rw [(queue_eq_nil s).mpr length]
    exact (queue_eq_nil _).mpr length
  | true =>
    refine List.map_congr_left fun k hk => Memory.read_set_other (fun e => ha ?_) _ _
    exact LiveSlot.inRegion h ⟨hc, k, List.mem_range.mp hk, e⟩

/-- `hostKept` after HOST's write (log 21). -/
theorem hostWrite_hostKept_eq_false {s : State} {a : Addr} (hc : s.constructed = true) (ha : inRegion s a) (v : Byte) :
    (hostWrite a v s).hostKept = false := by
  rw [hostWrite_hostKept, hc, (isSlot_iff_inRegion s a).mpr ha]
  simp

theorem hostWrite_hostKept_of_kept {s : State} {a : Addr} (ha : ¬(s.constructed = true ∧ inRegion s a)) (v : Byte) :
    (hostWrite a v s).hostKept = s.hostKept := by
  rw [← isSlot_iff_inRegion, ← Bool.and_eq_true, Bool.not_eq_true] at ha
  rw [hostWrite_hostKept, ha]
  simp

/-! ### The queue and the record of pushes (R35 INV5) -/

theorem Memory.read_of_get? {m : Memory} {a : Addr} {v : Byte} (h : Memory.get? a.toNat m = some v) :
    Memory.read m a = v := by
  rw [Memory.read, h]

theorem pushedQueue_ne_none {s : State} (h : LivePushed s) : ∀ b ∈ pushedQueue s, b ≠ none := by
  intro b hb
  obtain ⟨k, hk, rfl⟩ := List.mem_map.mp hb
  obtain ⟨v, hv⟩ := h.pushed k (List.mem_range.mp hk)
  rw [hv]
  exact Option.some_ne_none v

theorem queue_eq_pushedQueue {s : State} (h : LivePushed s) (hk : s.hostKept = true) :
    (queue s).map some = pushedQueue s := by
  rw [queue, List.map_map]
  refine List.map_congr_left fun k hlt => ?_
  have hlt := List.mem_range.mp hlt
  obtain ⟨v, hv⟩ := h.written k hlt
  rw [← h.kept hk k hlt, Function.comp_apply, Memory.read_of_get? hv, hv]

end Sys2Proof.Machine

namespace Sys2Proof.Proofs

open Sys2Proof Sys2Proof.Machine

/-- Settles O28: by what a step does with STORE; the block reads elements of the queue, which INV5 says are written. -/
theorem storeReadsTheLatestWrite : Obligations.StoreReadsTheLatestWrite := by
  intro s t a h
  have does := storeStep_of_stepDoes (step_does h)
  refine ⟨fun v rest hm => read_of_hostWrite h hm, fun v ha => ?written, fun hh hw => does.read_same hw hh,
    fun v ha => ?read⟩
  case written =>
    rw [(does.of_write_access ha).1]
    exact Memory.read_set_same a v s.store
  case read =>
    obtain ⟨value, store, live⟩ := does.of_read_access ha
    exact ⟨value, store, fun hco => (live hco).written hco⟩

/-- Settles O29: the accesses are at slots of the region, and no other byte changes but by HOST. -/
theorem storeIsTouchedOnlyInTheBorrowedRegion : Obligations.StoreIsTouchedOnlyInTheBorrowedRegion := by
  intro s t hco h
  have does := storeStep_of_stepDoes (step_does h)
  have writes : ∀ a v, t.accesses = s.accesses ++ [.write a v] → inRegion s a := fun a v ha => by
    obtain ⟨_, _, _, _, region⟩ := does.of_write_access ha
    exact region hco
  refine ⟨fun a v ha => ?read, writes, fun a changed => ?changed⟩
  case read =>
    obtain ⟨_, _, live⟩ := does.of_read_access ha
    exact (live hco).inRegion hco
  case changed =>
    by_contra! untouched
    obtain ⟨noWrite, noHost⟩ := untouched
    exact changed (does.read_same (fun v ha => noWrite (writes a v ha) v ha) noHost)

/-- Settles O31: the step is `hostWrite`, which has no element of the queue behind the region. -/
theorem hostWriteNeverReachesTheRegisters : Obligations.HostWriteNeverReachesTheRegisters := by
  intro s a v rest hm
  refine ⟨_, step_of_move hm (by simp), ⟨rfl, rfl, rfl, rfl, rfl, rfl⟩, ⟨rfl, rfl, rfl, rfl, rfl⟩, rfl,
    Memory.read_set_same a v s.store, fun hco ha => ?queue⟩
  exact queue_hostWrite_of_not_inRegion (coherent_withMoves hco rest) ha v

/-- Settles O58: INV5, of the queue as a list; and the records by what a step does with STORE. -/
theorem queueIsWhatPushesWroteSinceTheConstruct : Obligations.QueueIsWhatPushesWroteSinceTheConstruct := by
  refine ⟨fun s hco hc => ⟨pushedQueue_ne_none (hco.inv5 hc), queue_eq_pushedQueue (hco.inv5 hc)⟩,
    fun s t h => ?records⟩
  have does := storeStep_of_stepDoes (step_does h)
  refine ⟨fun a v ha => ?write, fun store capacity hi hs hc => ?construct, fun edge rst => ?reset,
    fun a v rest hm => ?host, ?otherwise⟩
  case write =>
    obtain ⟨_, pushes, pushed, hostKept, _⟩ := does.of_write_access ha
    exact ⟨pushes, pushed, hostKept⟩
  case construct =>
    cases ((step_of_issues hi).trans (exec_construct_of_legal hc hs _)).symm.trans h
    exact ⟨rfl, rfl⟩
  case reset =>
    cases (step_of_rst edge rst).symm.trans h
    exact ⟨rfl, rfl⟩
  case host =>
    cases (step_of_move hm (by simp)).symm.trans h
    exact ⟨rfl, fun ⟨hc, ha⟩ => hostWrite_hostKept_eq_false (s := { s with moves := rest }) hc ha v,
      fun ha => hostWrite_hostKept_of_kept (s := { s with moves := rest }) ha v⟩
  case otherwise =>
    cases does with
    | host a v rest move _ _ => exact .inr (.inr (.inr (.inl ⟨a, v, rest, move⟩)))
    | read _ _ _ _ record _ => exact .inr (.inr (.inr (.inr record)))
    | write a v _ _ one _ _ _ _ => exact .inr (.inr (.inl ⟨a, v, one⟩))
    | untouched _ _ _ record =>
      rcases record with reset | construct | same
      · exact .inl reset
      · exact .inr (.inl construct)
      · exact .inr (.inr (.inr (.inr same)))

end Sys2Proof.Proofs
end

section
/-! PROOFS. The commands on the queue as a list (`40_ringbuffer_ops.md` section 8, R142 to R144). -/

namespace Sys2Proof.Machine

open Sys2Proof

/-! ### An answer does not change the queue -/

theorem queue_respond (st : Status) (d : Byte) (s : State) : queue (respond st d s) = queue s := rfl

/-- The commands that neither push nor pop nor construct leave the queue. -/
theorem queue_of_predicate_or_receiver {n th dl : Byte} {i : Instr} {s t : State}
    (hi : i ∈ [Instr.isFull, .isEmpty, .rdreg n, .rxConfig th dl, .rxStart]) (hd : ExecDoes s i t) :
    queue t = queue s := by
  cases hd with
  | answers _ _ _ _ | answersAny _ _ _ _ | rxConfig _ _ | rxStart _ _ _ => rfl
  | _ => simp at hi

/-! ### The ends of the queue -/

theorem length_ne_zero_of_queue {s : State} (h : queue s ≠ []) : s.length ≠ 0#8 :=
  fun e => h ((queue_eq_nil s).mpr e)

theorem takeBack_of_queue {s : State} (h : Coherent s) (hc : s.constructed = true) {q : List Byte} {v : Byte}
    (hq : queue s = q ++ [v]) : (takeBack s).1 = v ∧ queue (takeBack s).2 = q := by
  have hl : s.length ≠ 0#8 := length_ne_zero_of_queue (by simp [hq])
  obtain ⟨front, last⟩ := List.append_inj' ((queue_takeBack h hc hl).symm.trans hq) rfl
  exact ⟨List.singleton_inj.mp last, front⟩

theorem takeFront_of_queue {s : State} (h : Coherent s) (hc : s.constructed = true) {q : List Byte} {v : Byte}
    (hq : queue s = v :: q) : (takeFront s).1 = v ∧ queue (takeFront s).2 = q := by
  have hl : s.length ≠ 0#8 := length_ne_zero_of_queue (by simp [hq])
  exact List.cons.inj ((queue_takeFront h hc hl).symm.trans hq)

/-! ### Each command, with the queue before and after it -/

section Commands

variable {s : State} (h : Coherent s) (hc : s.constructed = true)
include h hc

theorem exec_pushBack_queue (hl : s.length ≠ s.capacity) (d : Byte) :
    ∃ t, exec (.pushBack d) s = .next t ∧ Answered s t 0x0000#16 ∧ queue t = queue s ++ [d] :=
  ⟨_, exec_pushBack_of_room hc hl d, ⟨rfl, rfl⟩, queue_placeBack h hc hl d⟩

theorem exec_pushFront_queue (hl : s.length ≠ s.capacity) (d : Byte) :
    ∃ t, exec (.pushFront d) s = .next t ∧ Answered s t 0x0000#16 ∧ queue t = d :: queue s :=
  ⟨_, exec_pushFront_of_room hc hl d, ⟨rfl, rfl⟩, queue_placeFront h hc hl d⟩

theorem exec_popBack_queue {q : List Byte} {v : Byte} (hq : queue s = q ++ [v]) :
    ∃ t, exec .popBack s = .next t ∧ Answered s t (okWord v) ∧ queue t = q := by
  obtain ⟨rfl, rest⟩ := takeBack_of_queue h hc hq
  exact ⟨_, exec_popBack_of_nonempty hc (length_ne_zero_of_queue (by simp [hq])),
    ⟨rfl, rfl⟩, rest⟩

theorem exec_peekBack_queue {q : List Byte} {v : Byte} (hq : queue s = q ++ [v]) :
    ∃ t, exec .peekBack s = .next t ∧ Answered s t (okWord v) ∧ queue t = queue s := by
  obtain ⟨rfl, _⟩ := takeBack_of_queue h hc hq
  exact ⟨_, exec_peekBack_of_nonempty hc (length_ne_zero_of_queue (by simp [hq])),
    ⟨rfl, rfl⟩, rfl⟩

theorem exec_popFront_queue {q : List Byte} {v : Byte} (hq : queue s = v :: q) :
    ∃ t, exec .popFront s = .next t ∧ Answered s t (okWord v) ∧ queue t = q := by
  obtain ⟨rfl, rest⟩ := takeFront_of_queue h hc hq
  exact ⟨_, exec_popFront_of_nonempty hc (length_ne_zero_of_queue (by simp [hq])),
    ⟨rfl, rfl⟩, rest⟩

theorem exec_peekFront_queue {q : List Byte} {v : Byte} (hq : queue s = v :: q) :
    ∃ t, exec .peekFront s = .next t ∧ Answered s t (okWord v) ∧ queue t = queue s := by
  obtain ⟨rfl, _⟩ := takeFront_of_queue h hc hq
  exact ⟨_, exec_peekFront_of_nonempty hc (length_ne_zero_of_queue (by simp [hq])),
    ⟨rfl, rfl⟩, rfl⟩

end Commands

/-- `CONSTRUCT` empties the queue where it answers `Ok`, and else leaves it. -/
theorem queue_of_construct {store : Addr} {capacity : Byte} {s t : State}
    (hd : ExecDoes s (.construct store capacity) t) :
    (Answered s t 0x0000#16 → queue t = []) ∧ (¬ Answered s t 0x0000#16 → queue t = queue s) := by
  cases hd with
  | answers _ st d hst =>
    have failed : st ≠ .ok := by simpa using hst
    exact ⟨fun ok => absurd ⟨0x00#8, ok.responses⟩ (not_answeredOk failed rfl), fun _ => rfl⟩
  | answersAny _ _ hread _ => cases hread
  | construct _ _ _ _ => exact ⟨fun _ => (queue_eq_nil _).mpr rfl, fun notOk => absurd ⟨rfl, rfl⟩ notOk⟩

/-! ### A push and a pop at one end (R144 P3) -/

/-- A count that went up comes down again. -/
theorem toReg8_succ_pred {l c : Byte} (h : l.toNat < c.toNat) : toReg8 ((toReg8 (l.toNat + 1)).toNat - 1) = l := by
  rw [toReg8_succ h, Nat.add_sub_cancel, toReg8_of_byte]

section RoundTrip

variable {s : State} (h : Coherent s) (hc : s.constructed = true) (hl : s.length ≠ s.capacity)
include h hc hl

theorem takeBack_placeBack (d : Byte) :
    (takeBack (placeBack d s)).1 = d ∧ queue (takeBack (placeBack d s)).2 = queue s :=
  takeBack_of_queue (h.placeBack hc hl d) hc (queue_placeBack h hc hl d)

theorem takeFront_placeFront (d : Byte) :
    (takeFront (placeFront d s)).1 = d ∧ queue (takeFront (placeFront d s)).2 = queue s :=
  takeFront_of_queue (h.placeFront hc hl d) hc (queue_placeFront h hc hl d)

theorem sameRing_takeBack_placeBack (d : Byte) : SameRing s (takeBack (placeBack d s)).2 :=
  ⟨rfl, toReg8_succ_pred (h.room hc hl), rfl, retreat_advance (h.inv3 hc).2, rfl, rfl⟩

theorem sameRing_takeFront_placeFront (d : Byte) : SameRing s (takeFront (placeFront d s)).2 :=
  ⟨rfl, toReg8_succ_pred (h.room hc hl), advance_retreat (h.inv3 hc).1, rfl, rfl, rfl⟩

theorem placeBack_length_ne_zero (d : Byte) : (placeBack d s).length ≠ 0#8 :=
  length_ne_zero_of_queue (by simp [queue_placeBack h hc hl d])

theorem placeFront_length_ne_zero (d : Byte) : (placeFront d s).length ≠ 0#8 :=
  length_ne_zero_of_queue (by simp [queue_placeFront h hc hl d])

end RoundTrip

/-! ### Many pushes, then many pops (R144 P4, P5) -/

theorem execAll_cons {i : Instr} {is : List Instr} {s t : State} (h : exec i s = .next t) :
    execAll (i :: is) s = execAll is t := by
  rw [execAll, h]

/-- A state between two commands of such a sequence. -/
structure Usable (s : State) : Prop where
  coherent : Coherent s
  constructed : s.constructed = true

/-- Up to the capacity, bytes pushed at the back stand behind the queue in their order. -/
theorem execAll_pushBack {s : State} (h : Usable s) {xs : List Byte}
    (hroom : s.length.toNat + xs.length ≤ s.capacity.toNat) :
    ∃ t, execAll (xs.map .pushBack) s = some t ∧ Usable t ∧ queue t = queue s ++ xs := by
  induction xs generalizing s with
  | nil => exact ⟨s, rfl, h, (List.append_nil _).symm⟩
  | cons x xs ih =>
    obtain ⟨hco, hc⟩ := h
    rw [List.length_cons] at hroom
    have lt : s.length.toNat < s.capacity.toNat := by omega
    have hl := ne_of_room lt
    have length : (placeBack x s).length.toNat = s.length.toNat + 1 := toReg8_succ lt
    have room : (placeBack x s).length.toNat + xs.length ≤ s.capacity.toNat := by omega
    obtain ⟨t, run, usable, all⟩ := ih (s := respond .ok 0x00#8 (placeBack x s))
      ⟨coherent_respond (hco.placeBack hc hl x) _ _, hc⟩ room
    rw [queue_respond, queue_placeBack hco hc hl] at all
    exact ⟨t, (execAll_cons (exec_pushBack_of_room hc hl x)).trans run, usable,
      by rw [all, List.append_assoc, List.singleton_append]⟩

/-- Up to the capacity, bytes pushed at the front stand before the queue, the last one first. -/
theorem execAll_pushFront {s : State} (h : Usable s) {xs : List Byte}
    (hroom : s.length.toNat + xs.length ≤ s.capacity.toNat) :
    ∃ t, execAll (xs.map .pushFront) s = some t ∧ Usable t ∧ queue t = xs.reverse ++ queue s := by
  induction xs generalizing s with
  | nil => exact ⟨s, rfl, h, rfl⟩
  | cons x xs ih =>
    obtain ⟨hco, hc⟩ := h
    rw [List.length_cons] at hroom
    have lt : s.length.toNat < s.capacity.toNat := by omega
    have hl := ne_of_room lt
    have length : (placeFront x s).length.toNat = s.length.toNat + 1 := toReg8_succ lt
    have room : (placeFront x s).length.toNat + xs.length ≤ s.capacity.toNat := by omega
    obtain ⟨t, run, usable, all⟩ := ih (s := respond .ok 0x00#8 (placeFront x s))
      ⟨coherent_respond (hco.placeFront hc hl x) _ _, hc⟩ room
    rw [queue_respond, queue_placeFront hco hc hl] at all
    exact ⟨t, (execAll_cons (exec_pushFront_of_room hc hl x)).trans run, usable,
      by rw [all, List.reverse_cons, List.append_assoc, List.singleton_append]⟩

/-- Pops at the front answer the queue in order. -/
theorem execAll_popFront {s : State} (h : Usable s) {xs : List Byte} (hq : queue s = xs) :
    ∃ u, execAll (List.replicate xs.length .popFront) s = some u ∧
      u.responses = s.responses ++ xs.map okWord := by
  induction xs generalizing s with
  | nil => exact ⟨s, rfl, (List.append_nil _).symm⟩
  | cons x xs ih =>
    obtain ⟨hco, hc⟩ := h
    have hl : s.length ≠ 0#8 := length_ne_zero_of_queue (by simp [hq])
    obtain ⟨value, rest⟩ := takeFront_of_queue hco hc hq
    obtain ⟨u, run, answers⟩ := ih (s := respond .ok (takeFront s).1 (takeFront s).2)
      ⟨coherent_respond (hco.takeFront hc hl) _ _, hc⟩ rest
    refine ⟨u, (execAll_cons (exec_popFront_of_nonempty hc hl)).trans run, ?_⟩
    rw [answers, respond_responses, takeFront_responses, responseWord_ok, value, List.append_assoc,
      List.singleton_append, List.map_cons]

/-- Pops at the back answer the queue in reverse order. -/
theorem execAll_popBack {s : State} (h : Usable s) {xs : List Byte} (hq : queue s = xs.reverse) :
    ∃ u, execAll (List.replicate xs.length .popBack) s = some u ∧
      u.responses = s.responses ++ xs.map okWord := by
  induction xs generalizing s with
  | nil => exact ⟨s, rfl, (List.append_nil _).symm⟩
  | cons x xs ih =>
    obtain ⟨hco, hc⟩ := h
    rw [List.reverse_cons] at hq
    have hl : s.length ≠ 0#8 := length_ne_zero_of_queue (by simp [hq])
    obtain ⟨value, rest⟩ := takeBack_of_queue hco hc hq
    obtain ⟨u, run, answers⟩ := ih (s := respond .ok (takeBack s).1 (takeBack s).2)
      ⟨coherent_respond (hco.takeBack hc hl) _ _, hc⟩ rest
    refine ⟨u, (execAll_cons (exec_popBack_of_nonempty hc hl)).trans run, ?_⟩
    rw [answers, respond_responses, takeBack_responses, responseWord_ok, value, List.append_assoc,
      List.singleton_append, List.map_cons]

end Sys2Proof.Machine

namespace Sys2Proof.Proofs

open Sys2Proof Sys2Proof.Machine

/-- Settles O43: each command by its effect on the queue; where a check turns it away it only answers. -/
theorem commandsActOnTheQueueAsAList : Obligations.CommandsActOnTheQueueAsAList := by
  refine fun s hco hc => ⟨queue_length s, fun hroom d => ?pushes, fun hfull d => ?full, fun q v hq => ?back,
    fun v q hq => ?front, fun hempty i hi => ?empty, fun store capacity t h => queue_of_construct (exec_does h),
    fun n th dl i hi => ?keeps, ?rxStart⟩
  case pushes =>
    rw [queue_length] at hroom
    exact ⟨exec_pushBack_queue hco hc (ne_of_room hroom) d, exec_pushFront_queue hco hc (ne_of_room hroom) d⟩
  case full =>
    have hl : s.length = s.capacity := BitVec.eq_of_toNat_eq ((queue_length s).symm.trans hfull)
    exact ⟨⟨_, exec_push_of_full hc hl (d := d) (by simp), answered_respond_full s, rfl⟩,
      ⟨_, exec_push_of_full hc hl (d := d) (by simp), answered_respond_full s, rfl⟩⟩
  case back => exact ⟨exec_popBack_queue hco hc hq, exec_peekBack_queue hco hc hq⟩
  case front => exact ⟨exec_popFront_queue hco hc hq, exec_peekFront_queue hco hc hq⟩
  case empty =>
    exact ⟨_, _, exec_pop_or_peek_of_empty hc ((queue_eq_nil s).mp hempty) hi, respondAny8_empty_responses s, hempty⟩
  case keeps =>
    obtain ⟨t, h⟩ := exec_next i s
    exact ⟨t, h, queue_of_predicate_or_receiver (List.mem_append_left [.rxStart] hi) (exec_does h)⟩
  case rxStart =>
    obtain ⟨t, h⟩ := exec_next .rxStart s
    exact ⟨t, h, queue_of_predicate_or_receiver (n := 0#8) (th := 0#8) (dl := 0#8) (by simp) (exec_does h)⟩

/-- Settles O44: the queue after the push ends in the byte, so the pop takes it; the index steps undo each other. -/
theorem pushThenPopAtOneEndRoundTrips : Obligations.PushThenPopAtOneEndRoundTrips := by
  intro s x hco hc hlt
  have hl := ne_of_room hlt
  constructor
  · obtain ⟨value, rest⟩ := takeBack_placeBack hco hc hl x
    obtain ⟨capacity, length, front, back, storeBase, constructed⟩ := sameRing_takeBack_placeBack hco hc hl x
    exact ⟨_, _, exec_pushBack_of_room hc hl x,
      exec_popBack_of_nonempty (s := respond .ok 0x00#8 (placeBack x s)) hc (placeBack_length_ne_zero hco hc hl x),
      congrArg (fun d => _ ++ [okWord d]) value, ⟨capacity, length, front, back, storeBase, constructed⟩,
      ⟨rfl, rfl, rfl, rfl, rfl⟩, rest, fun a ha => Memory.read_set_other ha _ _⟩
  · obtain ⟨value, rest⟩ := takeFront_placeFront hco hc hl x
    obtain ⟨capacity, length, front, back, storeBase, constructed⟩ := sameRing_takeFront_placeFront hco hc hl x
    exact ⟨_, _, exec_pushFront_of_room hc hl x,
      exec_popFront_of_nonempty (s := respond .ok 0x00#8 (placeFront x s)) hc
        (placeFront_length_ne_zero hco hc hl x),
      congrArg (fun d => _ ++ [okWord d]) value, ⟨capacity, length, front, back, storeBase, constructed⟩,
      ⟨rfl, rfl, rfl, rfl, rfl⟩, rest, fun a ha => Memory.read_set_other ha _ _⟩

/-- Settles O45: from the empty queue, what the pushes leave as the queue, and what the pops answer of it. -/
theorem queueIsFifoAcrossAndLifoAtOneEnd : Obligations.QueueIsFifoAcrossAndLifoAtOneEnd := by
  intro s xs hco hc hl hlen
  have nil : queue s = [] := (queue_eq_nil s).mpr hl
  have room : s.length.toNat + xs.length ≤ s.capacity.toNat := by simpa [hl] using hlen
  obtain ⟨t, pushed, usable, all⟩ := execAll_pushBack ⟨hco, hc⟩ room
  obtain ⟨t', pushed', usable', all'⟩ := execAll_pushFront ⟨hco, hc⟩ room
  rw [nil, List.nil_append] at all
  rw [nil, List.append_nil] at all'
  refine ⟨?backFront, ?frontBack, ?backBack, ?frontFront⟩
  case backFront =>
    obtain ⟨u, popped, answers⟩ := execAll_popFront usable all
    exact ⟨t, u, pushed, popped, answers⟩
  case frontBack =>
    obtain ⟨u, popped, answers⟩ := execAll_popBack usable' all'
    exact ⟨t', u, pushed', popped, answers⟩
  case backBack =>
    obtain ⟨u, popped, answers⟩ := execAll_popBack usable (all.trans (List.reverse_reverse xs).symm)
    exact ⟨t, u, pushed, List.length_reverse (as := xs) ▸ popped, answers⟩
  case frontFront =>
    obtain ⟨u, popped, answers⟩ := execAll_popFront usable' all'
    exact ⟨t', u, pushed', List.length_reverse (as := xs) ▸ popped, answers⟩

end Sys2Proof.Proofs
end

section
/-! PROOFS. Whole sessions (`41_receiver_ops.md` section 3, R187 and R188): what each step of a session does, what holds
along every schedule, and the run of a session that nothing disturbs. -/

namespace Sys2Proof.Machine

open Sys2Proof

/-! ### One step of a session -/

/-- What one step that begins in a session does, by the block or by the environment: reset; a step that takes no item
and stays in its phase or opens `PH_BYTE`; a byte that is pushed; a fault; or the end that completes. -/
inductive SessionStep (s t : State) : Prop
  | reset (phase : t.phase = .none) (rxState : t.rxState = .idle) (fault : t.fault = 0#4) (taken : t.taken = s.taken)
  | stays (phase : t.phase = s.phase ∨ (s.phase = .resume ∧ t.phase = .byte)) (ring : SameRing s t)
      (threshold : t.threshold = s.threshold) (fault : t.fault = s.fault) (taken : t.taken = s.taken)
  | pushed (it : SrcItem) (rest : List SrcItem) (hp : InPhase s .byte)
      (e : s.length.toNat < s.capacity.toNat → t = byteReceived it.data rest s)
  | faulted (it : SrcItem) (rest : List SrcItem) (hp : InPhase s .byte)
      (hf : it.clean = false ∨ s.length = s.capacity) (e : t = sessionFault (causeMask it) rest s)
  | completed (hp : InPhase s .pause) (phase : t.phase = .none) (rxState : t.rxState = .completed)
      (fault : t.fault = s.fault) (taken : t.taken = s.taken)

theorem sessionStep_of_stepDoes {s t : State} (hd : StepDoes s t) (hs : s.phase ≠ .none) : SessionStep s t := by
  cases hd with
  | environment m rest _ _ _ =>
    obtain ⟨capacity, length, front, back, storeBase, constructed⟩ := sameRing_envMove m { s with moves := rest }
    obtain ⟨threshold, _, _, fault, phase⟩ := sameReceiver_envMove m { s with moves := rest }
    exact .stays (.inl phase) ⟨capacity, length, front, back, storeBase, constructed⟩ threshold fault
      (envMove_taken m _)
  | reset _ _ => exact .reset rfl rfl rfl rfl
  | wait _ _ _ => exact .stays (.inl rfl) ⟨rfl, rfl, rfl, rfl, rfl, rfl⟩ rfl rfl rfl
  | illegal _ _ _ hp _ _ => exact absurd hp.phase hs
  | command _ _ hp _ _ => exact absurd hp.phase hs
  | resume hp _ => exact .stays (.inr ⟨hp.phase, rfl⟩) ⟨rfl, rfl, rfl, rfl, rfl, rfl⟩ rfl rfl rfl
  | byte it rest hp hsrc =>
    have step := step_eq_receiveItem hp hsrc
    rcases receiveItem_faults_or_pushes it (srcTake rest { s with moves := s.moves.tail }) with
      ⟨hf, e⟩ | ⟨hc, _, _⟩
    · exact .faulted it rest hp hf e
    · refine .pushed it rest hp fun room => ?_
      exact Host.Outcome.next.inj (step.symm.trans (step_eq_byteReceived hp hsrc hc room))
  | pause hp _ => exact .completed hp rfl rfl rfl rfl

/-- The session goes on after a byte exactly where it is no delimiter and the threshold is not reached (R184). -/
theorem byteReceived_phase_byte {d : Byte} {rest : List SrcItem} {s : State}
    (h : (byteReceived d rest s).phase = .byte) : d ≠ s.delim ∧ s.length.toNat + 1 < s.threshold.toNat := by
  rw [byteReceived_phase_eq] at h
  split at h
  · cases h
  · next go =>
    obtain ⟨notDelim, below⟩ := not_or.mp go
    exact ⟨notDelim, Nat.lt_of_not_le below⟩

theorem byteReceived_phase_of_goes {d : Byte} {rest : List SrcItem} {s : State} (hd : d ≠ s.delim)
    (ht : s.length.toNat + 1 < s.threshold.toNat) : (byteReceived d rest s).phase = .byte :=
  if_neg (not_or.mpr ⟨hd, Nat.not_le_of_lt ht⟩)

theorem byteReceived_phase_of_stops {d : Byte} {rest : List SrcItem} {s : State}
    (h : d = s.delim ∨ s.threshold.toNat ≤ s.length.toNat + 1) : (byteReceived d rest s).phase = .pause :=
  if_pos h

/-- A byte that is pushed leaves the session in `PH_BYTE` or in `PH_PAUSE`. -/
theorem byteReceived_phase (d : Byte) (rest : List SrcItem) (s : State) :
    (byteReceived d rest s).phase = .byte ∨ (byteReceived d rest s).phase = .pause := by
  rw [byteReceived_phase_eq]
  split
  · exact .inr rfl
  · exact .inl rfl

/-! ### A session with room (R188) -/

theorem BelowCapacity.phase_ne_none {s : State} (h : BelowCapacity s) : s.phase ≠ .none := by
  rcases h.phase with e | e <;> simp [e]

theorem BelowCapacity.phase_ne_pause {s : State} (h : BelowCapacity s) : s.phase ≠ .pause := by
  rcases h.phase with e | e <;> simp [e]

/-- Where there is room, an item faults the session by a diagnostic alone. -/
theorem not_bufferFull_of_room {s : State} {it : SrcItem} (hl : s.length.toNat < s.capacity.toNat)
    (hf : it.clean = false ∨ s.length = s.capacity) : (causeMask it).getLsbD 3 = false := by
  obtain ⟨_, _, _, bf⟩ := getLsbD_causeMask it
  exact bf.trans (hf.resolve_right (ne_of_room hl))

theorem Coherent.not_bufferFull_in_session {s : State} (h : Coherent s) (hp : s.phase ≠ .none) :
    s.fault.getLsbD 3 = false := by
  rw [h.fault_of_receiving (h.inv8.mp hp)]
  rfl

/-- No step of a session with room raises `BF`. -/
theorem SessionStep.not_bufferFull {s t : State} (h : SessionStep s t) (hco : Coherent s) (hb : BelowCapacity s) :
    t.fault.getLsbD 3 = false := by
  have before := hco.not_bufferFull_in_session hb.phase_ne_none
  cases h with
  | reset _ _ fault _ => rw [fault]; rfl
  | stays _ _ _ fault _ => rw [fault]; exact before
  | pushed it rest _ e =>
    rw [e hb.room, byteReceived_fault]
    exact before
  | faulted it rest _ hf e =>
    rw [e, sessionFault_fault]
    exact not_bufferFull_of_room hb.room hf
  | completed hp _ _ _ _ => exact absurd hp.phase hb.phase_ne_pause

/-- While the session has not stopped there is room again, and `LENGTH` grew by the items taken. A byte leaves the
session below the threshold, which is at most the capacity (INV9). -/
theorem SessionStep.room_kept {s t : State} (h : SessionStep s t) (hco : Coherent s) (hb : BelowCapacity s)
    (ht : t.phase = .resume ∨ t.phase = .byte) :
    BelowCapacity t ∧ t.threshold = s.threshold ∧ t.capacity = s.capacity ∧
      t.length.toNat + s.taken = s.length.toNat + t.taken := by
  have notNone : t.phase ≠ .none := by rcases ht with e | e <;> simp [e]
  cases h with
  | reset phase _ _ _ => exact absurd phase notNone
  | stays _ ring threshold _ taken =>
    obtain ⟨capacity, length, _, _, _, _⟩ := ring
    exact ⟨⟨ht, by rw [length, capacity]; exact hb.room⟩, threshold, capacity, by rw [length, taken]⟩
  | pushed it rest hp e =>
    obtain rfl := e hb.room
    have notPause : (byteReceived it.data rest s).phase ≠ .pause := by rcases ht with e | e <;> simp [e]
    obtain ⟨_, below⟩ := byteReceived_phase_byte ((byteReceived_phase it.data rest s).resolve_right notPause)
    obtain ⟨_, _, legal⟩ := hco.inv9 (hco.receiving_of_phase hp.phase (by decide))
    have length := byteReceived_length_toNat it.data rest hb.room
    refine ⟨⟨ht, ?_⟩, byteReceived_threshold _ _ s, byteReceived_capacity _ _ s, ?_⟩
    · rw [length, byteReceived_capacity]
      exact Nat.lt_of_lt_of_le below legal
    · rw [length, byteReceived_taken]
      exact Nat.add_right_comm s.length.toNat 1 s.taken
  | faulted it rest _ _ e => exact absurd (e ▸ sessionFault_phase (causeMask it) rest s) notNone
  | completed _ phase _ _ _ => exact absurd phase notNone

/-! ### The items a session takes, along every schedule (R188) -/

/-- `taken` is within what R188 lets a session from `s` take: one item at or above the threshold, else the
difference. -/
def TakesWithin (s : State) (taken : Nat) : Prop :=
  (s.threshold.toNat ≤ s.length.toNat → taken ≤ s.taken + 1) ∧
  (s.length.toNat < s.threshold.toNat → taken + s.length.toNat ≤ s.taken + s.threshold.toNat)

/-- `t` is in the session of `s`, before its stop: below the threshold, once an item has been taken. -/
structure NotStopped (s t : State) : Prop where
  below : BelowCapacity t
  threshold : t.threshold = s.threshold
  count : t.length.toNat + s.taken = s.length.toNat + t.taken
  belowThreshold : t.taken = s.taken ∨ t.length.toNat < s.threshold.toNat

theorem NotStopped.takesWithin {s t : State} (h : NotStopped s t) : TakesWithin s t.taken := by
  obtain ⟨_, _, count, belowThreshold⟩ := h
  constructor <;> omega

/-- The item that stops the session is within the bound too. -/
theorem NotStopped.takesWithin_succ {s t : State} (h : NotStopped s t) : TakesWithin s (t.taken + 1) := by
  obtain ⟨_, _, count, belowThreshold⟩ := h
  constructor <;> omega

/-- What holds of each state of a session that began in `s` with room. -/
structure InBounds (s t : State) : Prop where
  coherent : Coherent t
  notBufferFull : t.fault.getLsbD 3 = false
  progress : NotStopped s t ∨ ((t.phase = .pause ∨ t.phase = .none) ∧ TakesWithin s t.taken)

theorem InBounds.takesWithin {s t : State} (h : InBounds s t) : TakesWithin s t.taken :=
  h.progress.elim NotStopped.takesWithin And.right

/-- One more step of a session that has not stopped. -/
theorem NotStopped.step {s t u : State} (h : NotStopped s t) (hco : Coherent t) (hd : SessionStep t u) :
    NotStopped s u ∨ ((u.phase = .pause ∨ u.phase = .none) ∧ TakesWithin s u.taken) := by
  have within := h.takesWithin
  have withinSucc := h.takesWithin_succ
  obtain ⟨below, threshold, count, belowThreshold⟩ := h
  have kept := hd.room_kept hco below
  cases hd with
  | reset phase _ _ taken => exact .inr ⟨.inr phase, taken ▸ within⟩
  | stays phase ring _ _ taken =>
    have open' : u.phase = .resume ∨ u.phase = .byte := by
      rcases phase with e | ⟨_, e⟩
      · exact e ▸ below.phase
      · exact .inr e
    obtain ⟨belowU, thresholdU, _, countU⟩ := kept open'
    exact .inl ⟨belowU, thresholdU.trans threshold, by omega, by rw [taken, ring.length]; exact belowThreshold⟩
  | pushed it rest hp e =>
    obtain rfl := e below.room
    rcases byteReceived_phase it.data rest t with phase | phase
    · obtain ⟨belowU, thresholdU, _, countU⟩ := kept (.inr phase)
      obtain ⟨_, goes⟩ := byteReceived_phase_byte phase
      have length := byteReceived_length_toNat it.data rest below.room
      exact .inl ⟨belowU, thresholdU.trans threshold, by omega, .inr (by rw [length, ← threshold]; exact goes)⟩
    · exact .inr ⟨.inl phase, withinSucc⟩
  | faulted it rest _ _ e =>
    obtain rfl := e
    exact .inr ⟨.inr (sessionFault_phase _ rest t), withinSucc⟩
  | completed hp _ _ _ _ => exact absurd hp.phase below.phase_ne_pause

/-- In `PH_PAUSE` no item is taken; the session ends there Completed, or by a reset. -/
theorem SessionStep.of_pause {t u : State} (hd : SessionStep t u) (hp : t.phase = .pause) :
    u.taken = t.taken ∧
      ((u.phase = .pause ∧ u.fault = t.fault) ∨
        (u.phase = .none ∧ ((u.rxState = .completed ∧ u.fault = t.fault) ∨ (u.rxState = .idle ∧ u.fault = 0#4)))) := by
  cases hd with
  | reset phase rxState fault taken => exact ⟨taken, .inr ⟨phase, .inr ⟨rxState, fault⟩⟩⟩
  | stays phase _ _ fault taken =>
    rcases phase with e | ⟨resume, _⟩
    · exact ⟨taken, .inl ⟨e.trans hp, fault⟩⟩
    · cases resume.symm.trans hp
  | pushed _ _ inByte _ => cases inByte.phase.symm.trans hp
  | faulted _ _ inByte _ _ => cases inByte.phase.symm.trans hp
  | completed _ phase rxState fault taken => exact ⟨taken, .inr ⟨phase, .inl ⟨rxState, fault⟩⟩⟩

theorem InBounds.step {s t u : State} (h : InBounds s t) (hp : t.phase ≠ .none) (hs : step t = .next u) :
    InBounds s u := by
  have does := step_does hs
  have session := sessionStep_of_stepDoes does hp
  obtain ⟨coherent, notBufferFull, progress⟩ := h
  have coherentU := coherent_of_stepDoes coherent does
  rcases progress with open' | ⟨stopped, within⟩
  · exact ⟨coherentU, session.not_bufferFull coherent open'.below, open'.step coherent session⟩
  · obtain ⟨taken, phase⟩ := session.of_pause (stopped.resolve_right hp)
    rw [← taken] at within
    rcases phase with ⟨pause, fault⟩ | ⟨none, ⟨_, fault⟩ | ⟨_, fault⟩⟩
    · exact ⟨coherentU, fault ▸ notBufferFull, .inr ⟨.inl pause, within⟩⟩
    · exact ⟨coherentU, fault ▸ notBufferFull, .inr ⟨.inr none, within⟩⟩
    · exact ⟨coherentU, fault ▸ rfl, .inr ⟨.inr none, within⟩⟩

theorem inBounds_of_inOneSession {s t : State} (hco : Coherent s) (hb : BelowCapacity s) (h : InOneSession s t) :
    InBounds s t := by
  induction h with
  | here => exact ⟨hco, hco.not_bufferFull_in_session hb.phase_ne_none, .inl ⟨hb, rfl, rfl, .inl rfl⟩⟩
  | step _ hp hs ih => exact ih.step hp hs

/-- A session that waits in `PH_PAUSE`, along every schedule up to its end. -/
theorem pause_of_inOneSession {t v : State} (hp : t.phase = .pause) (h : InOneSession t v) :
    v.taken = t.taken ∧ (v.phase = .pause ∨ (v.phase = .none ∧ (v.rxState = .completed ∨ v.rxState = .idle))) := by
  induction h with
  | here => exact ⟨rfl, .inl hp⟩
  | step _ hne hs ih =>
    obtain ⟨taken, phase⟩ := ih
    have paused := phase.resolve_right fun ⟨ended, _⟩ => hne ended
    obtain ⟨takenU, phaseU⟩ := (sessionStep_of_stepDoes (step_does hs) hne).of_pause paused
    refine ⟨takenU.trans taken, phaseU.imp And.left fun ⟨ended, rxState⟩ => ⟨ended, rxState.imp And.left And.left⟩⟩

/-! ### Runs -/

theorem runs_zero (s : State) : Runs 0 s s := rfl

theorem runs_succ_iff {n : Nat} {s t u : State} (h : step s = .next t) : Runs (n + 1) s u ↔ Runs n t u := by
  have hs : Host.Core.step Sys2Proof.core s = .next t := h
  simp only [Runs, Host.Core.run, hs]

theorem runs_trans {m n : Nat} {s t u : State} (h₁ : Runs m s t) (h₂ : Runs n t u) : Runs (m + n) s u := by
  induction m generalizing s with
  | zero =>
    cases h₁
    rwa [Nat.zero_add]
  | succ m ih =>
    obtain ⟨v, hv⟩ := step_next s
    rw [Nat.add_right_comm]
    exact (runs_succ_iff hv).mpr (ih ((runs_succ_iff hv).mp h₁))

theorem coherent_of_step {s t : State} (h : Coherent s) (hs : step s = .next t) : Coherent t :=
  coherent_of_stepDoes h (step_does hs)

theorem coherent_of_runs {n : Nat} {s t : State} (h : Coherent s) (hr : Runs n s t) : Coherent t := by
  induction n generalizing s with
  | zero =>
    cases hr
    exact h
  | succ n ih =>
    obtain ⟨v, hv⟩ := step_next s
    exact ih (coherent_of_step h hv) ((runs_succ_iff hv).mp hr)

/-! ### A session that nothing disturbs (R187) -/

theorem Undisturbed.inPhase {s : State} (h : Undisturbed s) {p : Phase} (hp : s.phase = p) : InPhase s p :=
  ⟨by unfold clockEdge; rw [h.moves], h.rst, hp⟩

/-- `s` once `RX_START` has been accepted and the resume byte handed over. -/
def sessionOpened (s : State) : State :=
  { snkWrite s.cfg.resumeCode { startSession (commandTaken s) with moves := s.moves.tail.tail } with phase := .byte }

section SessionOpened

variable (s : State)

theorem sessionOpened_rst : (sessionOpened s).rst = s.rst := rfl
theorem sessionOpened_sinkReady : (sessionOpened s).sinkReady = s.sinkReady := rfl
theorem sessionOpened_moves : (sessionOpened s).moves = s.moves.tail.tail := rfl
theorem sessionOpened_phase : (sessionOpened s).phase = .byte := rfl
theorem sessionOpened_source : (sessionOpened s).source = s.source := rfl
theorem sessionOpened_length : (sessionOpened s).length = s.length := rfl
theorem sessionOpened_capacity : (sessionOpened s).capacity = s.capacity := rfl
theorem sessionOpened_threshold : (sessionOpened s).threshold = s.threshold := rfl
theorem sessionOpened_delim : (sessionOpened s).delim = s.delim := rfl
theorem sessionOpened_cfg : (sessionOpened s).cfg = s.cfg := rfl
theorem sessionOpened_taken : (sessionOpened s).taken = s.taken := rfl
theorem sessionOpened_responses : (sessionOpened s).responses = s.responses := rfl
theorem sessionOpened_sink : (sessionOpened s).sink = s.sink ++ [s.cfg.resumeCode] := rfl
theorem sessionOpened_queue : queue (sessionOpened s) = queue s :=
  queue_of_same ⟨rfl, rfl, rfl, rfl, rfl, rfl⟩ fun _ => rfl

end SessionOpened

theorem runs_sessionOpened {s : State} (hu : Undisturbed s) (hi : Issues s .rxStart) (hc : s.constructed = true)
    (hf : s.rxState = .faulted → s.cfg.faultPolicy = .restartable) (hpos : 0 < s.threshold.toNat)
    (hle : s.threshold.toNat ≤ s.capacity.toNat) : Runs 2 s (sessionOpened s) := by
  have started : step s = .next (startSession (commandTaken s)) :=
    (step_of_issues hi).trans
      (exec_rxStart_of_accepted (s := commandTaken s) hc (not_halted_of_restartable hf) (threshold_legal hpos hle))
  have undisturbed : Undisturbed (startSession (commandTaken s)) :=
    ⟨congrArg List.tail hu.moves, hu.rst, hu.sinkReady⟩
  have resumed : step (startSession (commandTaken s)) = .next (sessionOpened s) :=
    (step_of_phase_resume (undisturbed.inPhase rfl)).trans (congrArg _ (seqResume_of_ready hu.sinkReady))
  exact (runs_succ_iff started).mpr ((runs_succ_iff resumed).mpr (runs_zero _))

theorem undisturbed_sessionOpened {s : State} (hu : Undisturbed s) : Undisturbed (sessionOpened s) := by
  refine ⟨?_, (sessionOpened_rst s).trans hu.rst, (sessionOpened_sinkReady s).trans hu.sinkReady⟩
  rw [sessionOpened_moves, hu.moves]
  rfl

theorem queue_byteReceived {s : State} (h : Coherent s) (hc : s.constructed = true)
    (hl : s.length.toNat < s.capacity.toNat) (d : Byte) (rest : List SrcItem) :
    queue (byteReceived d rest s) = queue s ++ [d] :=
  queue_placeBack (s := srcTake rest { s with moves := s.moves.tail }) (coherent_srcTake (coherent_withMoves h _) rest)
    hc (ne_of_room hl) d

theorem undisturbed_byteReceived {s : State} (hu : Undisturbed s) (d : Byte) (rest : List SrcItem) :
    Undisturbed (byteReceived d rest s) :=
  ⟨(byteReceived_moves d rest s).trans (congrArg List.tail hu.moves), (byteReceived_rst d rest s).trans hu.rst,
    (byteReceived_sinkReady d rest s).trans hu.sinkReady⟩

/-- `t` is `s`, in `PH_BYTE`, once the items `before` have been received; SOURCE still offers `rest`. -/
structure HasReceived (before rest : List SrcItem) (s t : State) : Prop where
  coherent : Coherent t
  undisturbed : Undisturbed t
  phase : t.phase = .byte
  source : t.source = rest
  queue : queue t = queue s ++ before.map (·.data)
  length : t.length.toNat = s.length.toNat + before.length
  taken : t.taken = s.taken + before.length
  capacity : t.capacity = s.capacity
  threshold : t.threshold = s.threshold
  delim : t.delim = s.delim
  cfg : t.cfg = s.cfg
  sink : t.sink = s.sink
  responses : t.responses = s.responses

/-- The items of a session are counted from the `LENGTH` it began with. -/
theorem goesOn_succ_iff {L threshold capacity j : Nat} {delim : Byte} {it : SrcItem} :
    goesOn (L + 1) threshold capacity delim j it ↔ goesOn L threshold capacity delim (j + 1) it := by
  unfold goesOn
  rw [Nat.add_assoc L 1 j, Nat.add_comm 1 j]

/-- Items that go on are received one after another, a step for each. -/
theorem runs_hasReceived {before rest : List SrcItem} {s : State} (h : Coherent s) (hu : Undisturbed s)
    (hp : s.phase = .byte) (hs : s.source = before ++ rest)
    (hgo : ∀ (j : Nat) (hj : j < before.length),
      goesOn s.length.toNat s.threshold.toNat s.capacity.toNat s.delim j before[j]) :
    ∃ t, Runs before.length s t ∧ HasReceived before rest s t := by
  induction before generalizing s with
  | nil => exact ⟨s, runs_zero s, h, hu, hp, hs, (List.append_nil _).symm, rfl, rfl, rfl, rfl, rfl, rfl, rfl, rfl⟩
  | cons it before ih =>
    obtain ⟨hc, _, hle⟩ := h.inv9 (h.receiving_of_phase hp (by decide))
    rw [List.cons_append] at hs
    obtain ⟨clean, _, notDelim, below⟩ := hgo 0 (Nat.zero_lt_succ _)
    have room : s.length.toNat < s.capacity.toNat := by omega
    have hstep := step_eq_byteReceived (hu.inPhase hp) hs clean room
    have length := byteReceived_length_toNat it.data (before ++ rest) room
    obtain ⟨t, run, received⟩ := ih (coherent_of_step h hstep) (undisturbed_byteReceived hu _ _)
      (byteReceived_phase_of_goes notDelim below) (byteReceived_source _ _ s) fun j hj => by
        rw [length, byteReceived_threshold, byteReceived_capacity, byteReceived_delim, goesOn_succ_iff]
        exact hgo (j + 1) (Nat.succ_lt_succ hj)
    have queueOne := queue_byteReceived h hc room it.data (before ++ rest)
    exact ⟨t, (runs_succ_iff hstep).mpr run, {
      coherent := received.coherent
      undisturbed := received.undisturbed
      phase := received.phase
      source := received.source
      queue := by rw [received.queue, queueOne, List.append_assoc, List.singleton_append, List.map_cons]
      length := by rw [received.length, length, List.length_cons]; omega
      taken := by rw [received.taken, byteReceived_taken, List.length_cons]; omega
      capacity := received.capacity.trans (byteReceived_capacity _ _ s)
      threshold := received.threshold.trans (byteReceived_threshold _ _ s)
      delim := received.delim.trans (byteReceived_delim _ _ s)
      cfg := received.cfg.trans (byteReceived_cfg _ _ s)
      sink := received.sink.trans (byteReceived_sink _ _ s)
      responses := received.responses.trans (byteReceived_responses _ _ s) }⟩

/-- The answer of a faulted session, as a sum (R98, R222). -/
theorem responseWord_receiveFault_eq_add (m : BitVec 4) :
    responseWord .receiveFault (faultByte m) = 0x9000#16 + m.setWidth 16 := by
  revert m
  decide

/-- An item without diagnostics that finds room and does not go on is a stop (R184 step 3). -/
theorem stops_of_not_goesOn {L threshold capacity j : Nat} {delim : Byte} {it : SrcItem}
    (h : ¬ goesOn L threshold capacity delim j it) (hc : it.clean = true) (hl : L + j ≠ capacity) :
    it.data = delim ∨ threshold ≤ L + j + 1 := by
  by_contra go
  obtain ⟨notDelim, below⟩ := not_or.mp go
  exact h ⟨hc, hl, notDelim, Nat.lt_of_not_le below⟩

/-- The step that completes a session. -/
theorem step_eq_completed {s : State} (hu : Undisturbed s) (hp : s.phase = .pause) :
    step s = .next (respond .ok 0x00#8 { snkWrite s.cfg.pauseCode { s with moves := s.moves.tail } with
      rxState := .completed, phase := .none }) :=
  (step_of_phase_pause (hu.inPhase hp)).trans (congrArg _ (seqPause_of_ready hu.sinkReady))

end Sys2Proof.Machine

namespace Sys2Proof.Proofs

open Sys2Proof Sys2Proof.Machine

/-- Settles O57: by what one step of a session does. -/
theorem roomIsKeptUntilTheSessionStops : Obligations.RoomIsKeptUntilTheSessionStops := by
  intro s t hco hb h
  have does := step_does h
  have session := sessionStep_of_stepDoes does hb.phase_ne_none
  exact ⟨coherent_of_stepDoes hco does, session.not_bufferFull hco hb, session.room_kept hco hb⟩

/-- Settles O56: `InBounds` along the session; the full buffer by the entry of a receive fault; and at the threshold
the byte stops the session, which then takes no item. -/
theorem bufferFullOnlyWhenTheSessionStartsFull : Obligations.BufferFullOnlyWhenTheSessionStartsFull := by
  refine ⟨fun s t hco hb h => ?room, fun s it rest hp hs hl => ?startsFull,
    fun s it rest hp hs hc hthr hl => ?atThreshold⟩
  case room =>
    have inBounds := inBounds_of_inOneSession hco hb h
    exact ⟨inBounds.notBufferFull, inBounds.takesWithin⟩
  case startsFull =>
    exact ⟨_, step_eq_sessionFault hp hs (.inr hl), sessionFault_rxState _ rest s, rfl, sessionFault_fault _ rest s⟩
  case atThreshold =>
    have phase : (byteReceived it.data rest s).phase = .pause :=
      byteReceived_phase_of_stops (.inr (Nat.le_succ_of_le hthr))
    refine ⟨_, step_eq_byteReceived hp hs hc hl, phase, rfl, rfl, fun v hv => ?_⟩
    obtain ⟨taken, ends⟩ := pause_of_inOneSession phase hv
    refine ⟨taken, ends, fun paused ready => ⟨_, (step_of_phase_pause paused).trans
      (congrArg _ (seqPause_of_ready ready)), rfl, taken⟩⟩

/-- Settles O55: two steps open the session, one step receives each item that goes on, and the item that does not
faults the session or stops it for the pause byte. -/
theorem sessionEndsAtTheFirstStoppingItem : Obligations.SessionEndsAtTheFirstStoppingItem := by
  intro s before last rest hco hu hi hc hf hpos hle hs hgo hlast
  have opens := runs_sessionOpened hu hi hc hf hpos hle
  obtain ⟨u, receives, received⟩ := runs_hasReceived (s := sessionOpened s) (coherent_of_runs hco opens)
    (undisturbed_sessionOpened hu) (sessionOpened_phase s) ((sessionOpened_source s).trans hs)
    (by simpa only [sessionOpened_length, sessionOpened_threshold, sessionOpened_capacity,
      sessionOpened_delim] using hgo)
  have toLast : Runs (2 + before.length) s u := runs_trans opens receives
  obtain ⟨coherent, undisturbed, phase, source, queue, length, taken, capacity, threshold, delim, cfg, sink,
    responses⟩ := received
  rw [sessionOpened_queue] at queue
  rw [sessionOpened_length] at length
  rw [sessionOpened_taken] at taken
  rw [sessionOpened_capacity] at capacity
  rw [sessionOpened_threshold] at threshold
  rw [sessionOpened_delim] at delim
  rw [sessionOpened_cfg] at cfg
  rw [sessionOpened_sink] at sink
  rw [sessionOpened_responses] at responses
  have inByte := undisturbed.inPhase phase
  refine ⟨fun fault => ?faulted, fun ⟨clean, notFull⟩ => ?completed⟩
  case faulted =>
    have cause : last.clean = false ∨ u.length = u.capacity := fault.imp_right fun full =>
      BitVec.eq_of_toNat_eq (by rw [length, full, capacity])
    have run := runs_trans toLast ((runs_succ_iff (step_eq_sessionFault inByte source cause)).mpr (runs_zero _))
    rw [show 2 + before.length + (0 + 1) = before.length + 3 by omega] at run
    refine ⟨_, run, sessionFault_rxState _ rest u, sessionFault_phase _ rest u, sink, queue, length,
      sessionFault_fault _ rest u, ?_, congrArg (· + 1) taken, rfl⟩
    rw [sessionFault_fault, ← responseWord_receiveFault_eq_add]
    exact congrArg (· ++ _) responses
  case completed =>
    have room : u.length.toNat < u.capacity.toNat := by
      refine coherent.room (coherent.inv9 (coherent.receiving_of_phase phase (by decide))).1 fun e => notFull ?_
      rw [← length, e, capacity]
    have stops : last.data = u.delim ∨ u.threshold.toNat ≤ u.length.toNat + 1 := by
      rw [delim, threshold, length]
      exact stops_of_not_goesOn hlast clean notFull
    have hc' := (coherent.inv9 (coherent.receiving_of_phase phase (by decide))).1
    have pushed := queue_byteReceived coherent hc' room last.data rest
    have received := step_eq_byteReceived inByte source clean room
    have completed := step_eq_completed (undisturbed_byteReceived undisturbed last.data rest)
      (byteReceived_phase_of_stops stops)
    have run := runs_trans toLast ((runs_succ_iff received).mpr ((runs_succ_iff completed).mpr (runs_zero _)))
    rw [show 2 + before.length + (0 + 1 + 1) = before.length + 4 by omega] at run
    refine ⟨_, run, rfl, rfl, ?sink, pushed.trans (congrArg (· ++ _) queue), ?length, ?responses,
      congrArg (· + 1) taken, rfl⟩
    case sink =>
      change u.sink ++ [u.cfg.pauseCode] = _
      rw [sink, cfg]
      exact List.append_assoc _ _ _
    case length => exact (byteReceived_length_toNat last.data rest room).trans (congrArg (· + 1) length)
    case responses => exact congrArg (· ++ _) responses

end Sys2Proof.Proofs
end

section
/-! PROOFS. What commands and sequencer steps do not look at (`10_state.md` R37, `60_exceptions.md` section 3): a change
of the state that an operation does not look at goes through it. -/

namespace Sys2Proof.Machine

open Sys2Proof

/-! ### A change that no answer looks at -/

/-- No answer looks at what `f` changes. -/
structure Transparent (f : State → State) : Prop where
  respond : ∀ st d s, respond st d (f s) = f (respond st d s)
  respondAny8 : ∀ st s, respondAny8 st (f s) = f (respondAny8 st s)

section Checks

variable {f : State → State} (hf : Transparent f) {s : State} (hc : (f s).constructed = s.constructed)
include hf hc

/-- The checks of a push look at `CONSTRUCTED`, `LENGTH` and `CAPACITY` (R219). -/
theorem pushChecked_comm {place : State → State} (hl : (f s).length = s.length)
    (hcap : (f s).capacity = s.capacity) (hplace : place (f s) = f (place s)) :
    pushChecked place (f s) = f (pushChecked place s) := by
  rw [pushChecked, pushChecked, hc, hl, hcap, hplace]
  split_ifs <;> exact hf.respond _ _ _

/-- The checks of a pop or peek look at `CONSTRUCTED` and `LENGTH`. -/
theorem takeChecked_comm {take : State → Byte × State} (hl : (f s).length = s.length)
    (htake : take (f s) = ((take s).1, f (take s).2)) : takeChecked take (f s) = f (takeChecked take s) := by
  rw [takeChecked, takeChecked, hc, hl, htake]
  split_ifs
  · exact hf.respondAny8 _ _
  · exact hf.respondAny8 _ _
  · exact hf.respond _ _ _

theorem answerChecked_comm (p : Bool) : answerChecked p (f s) = f (answerChecked p s) := by
  rw [answerChecked, answerChecked, hc]
  split_ifs <;> exact hf.respond _ _ _

end Checks

/-! ### Another value in one register -/

theorem transparent_copyReg (r : RegName) (o : State) : Transparent (copyReg r o) := by
  constructor <;> intros <;> cases r <;> rfl

/-- The other registers keep their values. -/
theorem sameReg_copyReg {q r : RegName} (h : q ≠ r) (o s : State) : sameReg q s (copyReg r o s) := by
  cases q <;> cases r
  case capacity.capacity | length.length | front.front | back.back | storeBase.storeBase | constructed.constructed |
      threshold.threshold | delim.delim | rxState.rxState | fault.fault | phase.phase => exact absurd rfl h
  all_goals rfl

/-- A register of a list that does not hold `r`. -/
theorem sameReg_copyReg_of_mem {rs : List RegName} {r : RegName} (hr : r ∉ rs) {q : RegName} (hq : q ∈ rs)
    (o s : State) : sameReg q s (copyReg r o s) :=
  sameReg_copyReg (ne_of_mem_of_not_mem hq hr) o s

theorem copyReg_sinkReady (r : RegName) (o s : State) : (copyReg r o s).sinkReady = s.sinkReady := by cases r <;> rfl

theorem copyReg_source (r : RegName) (o s : State) : (copyReg r o s).source = s.source := by cases r <;> rfl

theorem copyReg_cfg (r : RegName) (o s : State) : (copyReg r o s).cfg = s.cfg := by cases r <;> rfl

/-! ### The operations on the slots, with another value in a register they do not look at -/

section Slots

variable {r : RegName} (o s : State)

theorem placeBack_copyReg (hr : r ∉ [RegName.capacity, .length, .back, .storeBase]) (d : Byte) :
    placeBack d (copyReg r o s) = copyReg r o (placeBack d s) := by
  cases r with
  | capacity | length | back | storeBase => exact absurd (by decide) hr
  | _ => rfl

theorem placeFront_copyReg (hr : r ∉ [RegName.capacity, .length, .front, .storeBase]) (d : Byte) :
    placeFront d (copyReg r o s) = copyReg r o (placeFront d s) := by
  cases r with
  | capacity | length | front | storeBase => exact absurd (by decide) hr
  | _ => rfl

theorem takeBack_copyReg (hr : r ∉ [RegName.capacity, .length, .back, .storeBase]) :
    takeBack (copyReg r o s) = ((takeBack s).1, copyReg r o (takeBack s).2) := by
  cases r with
  | capacity | length | back | storeBase => exact absurd (by decide) hr
  | _ => rfl

theorem takeFront_copyReg (hr : r ∉ [RegName.capacity, .length, .front, .storeBase]) :
    takeFront (copyReg r o s) = ((takeFront s).1, copyReg r o (takeFront s).2) := by
  cases r with
  | capacity | length | front | storeBase => exact absurd (by decide) hr
  | _ => rfl

theorem lookFront_copyReg (hr : r ∉ [RegName.front, .storeBase]) :
    lookFront (copyReg r o s) = ((lookFront s).1, copyReg r o (lookFront s).2) := by
  cases r with
  | front | storeBase => exact absurd (by decide) hr
  | _ => rfl

theorem lookBack_copyReg (hr : r ∉ [RegName.capacity, .back, .storeBase]) :
    lookBack (copyReg r o s) = ((lookBack s).1, copyReg r o (lookBack s).2) := by
  cases r with
  | capacity | back | storeBase => exact absurd (by decide) hr
  | _ => rfl

/-- `t'` is `t` but for the register `r`, in which it keeps the value of `o`; or `r` is written, and they are the
same. -/
def Ignores (r : RegName) (o : State) (written : List RegName) (t t' : State) : Prop :=
  t' = copyReg r o t ∨ (r ∈ written ∧ t' = t)

theorem newQueue_ignores (store : Addr) (capacity : Byte) :
    Ignores r o (mayWrite (.construct store capacity)) (newQueue store capacity s)
      (newQueue store capacity (copyReg r o s)) := by
  cases r with
  | capacity | length | front | back | storeBase | constructed => exact .inr ⟨by simp [mayWrite], rfl⟩
  | _ => exact .inl rfl

theorem rxConfig_ignores (threshold delim : Byte) :
    Ignores r o (mayWrite (.rxConfig threshold delim)) { s with threshold := threshold, delim := delim }
      { copyReg r o s with threshold := threshold, delim := delim } := by
  cases r with
  | threshold | delim => exact .inr ⟨by simp [mayWrite], rfl⟩
  | _ => exact .inl rfl

theorem startSession_ignores : Ignores r o (mayWrite .rxStart) (startSession s) (startSession (copyReg r o s)) := by
  cases r with
  | rxState | fault | phase => exact .inr ⟨by simp [mayWrite], rfl⟩
  | _ => exact .inl rfl

variable {o} in
theorem Ignores.respond {written : List RegName} {t t' : State} (h : Ignores r o written t t') (st : Status)
    (d : Byte) : Ignores r o written (Machine.respond st d t) (Machine.respond st d t') :=
  h.imp (fun e => (congrArg (Machine.respond st d) e).trans ((transparent_copyReg r o).respond st d t))
    fun ⟨hw, e⟩ => ⟨hw, congrArg (Machine.respond st d) e⟩

end Slots

/-! ### Commands (R37) -/

/-- What a command does not write. -/
theorem sameReg_of_execDoes {i : Instr} {s t : State} {r : RegName} (hd : ExecDoes s i t) (hr : r ∉ mayWrite i) :
    sameReg r s t := by
  cases hd with
  | answers _ _ _ _ | answersAny _ _ _ _ | peekFront _ _ | peekBack _ _ => cases r <;> rfl
  | construct _ _ _ _ =>
    cases r with
    | capacity | length | front | back | storeBase | constructed => exact absurd (by simp [mayWrite]) hr
    | _ => rfl
  | pushBack _ _ _ | popBack _ _ =>
    cases r with
    | length | back => exact absurd (by simp [mayWrite]) hr
    | _ => rfl
  | pushFront _ _ _ | popFront _ _ =>
    cases r with
    | length | front => exact absurd (by simp [mayWrite]) hr
    | _ => rfl
  | rxConfig _ _ =>
    cases r with
    | threshold | delim => exact absurd (by simp [mayWrite]) hr
    | _ => rfl
  | rxStart _ _ _ =>
    cases r with
    | rxState | fault | phase => exact absurd (by simp [mayWrite]) hr
    | _ => rfl

/-- `RDREG` looks at every register but `PHASE` (R40). -/
theorem regRead_copyReg {r : RegName} {n : Byte} (hr : r ∉ mayRead (.rdreg n)) (o s : State) :
    regRead n (copyReg r o s) = regRead n s := by
  cases r with
  | phase => rfl
  | _ => exact absurd (by simp [mayRead]) hr

/-- What a command does not look at. -/
theorem exec_ignores {i : Instr} {s t : State} {r : RegName} (o : State) (hr : r ∉ mayRead i)
    (h : exec i s = .next t) :
    ∃ t', exec i (copyReg r o s) = .next t' ∧ Ignores r o (mayWrite i) t t' := by
  have hf := transparent_copyReg r o
  have same {q : RegName} (hq : q ∈ mayRead i) : sameReg q s (copyReg r o s) := sameReg_copyReg_of_mem hr hq o s
  have among {rs : List RegName} (hs : rs ⊆ mayRead i) : r ∉ rs := fun hm => hr (hs hm)
  cases i with
  | construct store capacity =>
    by_cases hc : capacity = 0#8
    · subst hc
      cases (exec_construct_of_zero_capacity store s).symm.trans h
      exact ⟨_, exec_construct_of_zero_capacity store _, .inl (hf.respond _ _ _)⟩
    · by_cases hs : store = 0x0000#16
      · subst hs
        cases (exec_construct_of_null_store hc s).symm.trans h
        exact ⟨_, exec_construct_of_null_store hc _, .inl (hf.respond _ _ _)⟩
      · cases (exec_construct_of_legal hc hs s).symm.trans h
        exact ⟨_, exec_construct_of_legal hc hs _, (newQueue_ignores o s store capacity).respond _ _⟩
  | pushBack d =>
    cases h
    exact ⟨_, rfl, .inl (pushChecked_comm hf (same (q := .constructed) (by simp [mayRead]))
      (same (q := .length) (by simp [mayRead])) (same (q := .capacity) (by simp [mayRead]))
      (placeBack_copyReg o s (among (by simp [mayRead])) d))⟩
  | pushFront d =>
    cases h
    exact ⟨_, rfl, .inl (pushChecked_comm hf (same (q := .constructed) (by simp [mayRead]))
      (same (q := .length) (by simp [mayRead])) (same (q := .capacity) (by simp [mayRead]))
      (placeFront_copyReg o s (among (by simp [mayRead])) d))⟩
  | popBack =>
    cases h
    exact ⟨_, rfl, .inl (takeChecked_comm hf (same (q := .constructed) (by simp [mayRead]))
      (same (q := .length) (by simp [mayRead])) (takeBack_copyReg o s (among (by simp [mayRead]))))⟩
  | popFront =>
    cases h
    exact ⟨_, rfl, .inl (takeChecked_comm hf (same (q := .constructed) (by simp [mayRead]))
      (same (q := .length) (by simp [mayRead])) (takeFront_copyReg o s (among (by simp [mayRead]))))⟩
  | isFull =>
    cases h
    have full : ((copyReg r o s).length == (copyReg r o s).capacity) = (s.length == s.capacity) := by
      rw [same (q := .length) (by simp [mayRead]), same (q := .capacity) (by simp [mayRead])]
    exact ⟨_, rfl, .inl (full ▸ answerChecked_comm hf (same (q := .constructed) (by simp [mayRead])) _)⟩
  | isEmpty =>
    cases h
    have empty : ((copyReg r o s).length == 0#8) = (s.length == 0#8) := by
      rw [same (q := .length) (by simp [mayRead])]
    exact ⟨_, rfl, .inl (empty ▸ answerChecked_comm hf (same (q := .constructed) (by simp [mayRead])) _)⟩
  | peekFront =>
    cases h
    exact ⟨_, rfl, .inl (takeChecked_comm hf (same (q := .constructed) (by simp [mayRead]))
      (same (q := .length) (by simp [mayRead])) (lookFront_copyReg o s (among (by simp [mayRead]))))⟩
  | peekBack =>
    cases h
    exact ⟨_, rfl, .inl (takeChecked_comm hf (same (q := .constructed) (by simp [mayRead]))
      (same (q := .length) (by simp [mayRead])) (lookBack_copyReg o s (among (by simp [mayRead]))))⟩
  | rxConfig threshold delim =>
    cases h
    exact ⟨_, rfl, (rxConfig_ignores o s threshold delim).respond _ _⟩
  | rxStart =>
    have constructed : (copyReg r o s).constructed = s.constructed := same (q := .constructed) (by simp [mayRead])
    have rxState : (copyReg r o s).rxState = s.rxState := same (q := .rxState) (by simp [mayRead])
    have threshold : (copyReg r o s).threshold = s.threshold := same (q := .threshold) (by simp [mayRead])
    have capacity : (copyReg r o s).capacity = s.capacity := same (q := .capacity) (by simp [mayRead])
    rw [exec_rxStart] at h ⊢
    rw [execRxStart, constructed, rxState, copyReg_cfg, threshold, capacity]
    rw [execRxStart] at h
    split_ifs at h ⊢
    case neg =>
      cases h
      exact ⟨_, rfl, startSession_ignores o s⟩
    all_goals
      cases h
      exact ⟨_, rfl, .inl (hf.respond _ _ _)⟩
  | rdreg n =>
    have found := regRead_copyReg hr o s
    rcases execRdreg_cases n s with ⟨v, some, e⟩ | ⟨none, e⟩ <;> cases e.symm.trans h
    · exact ⟨_, exec_rdreg_of_some (found.trans some), .inl (hf.respond _ _ _)⟩
    · exact ⟨_, exec_rdreg_of_none (found.trans none), .inl (hf.respond _ _ _)⟩

/-! ### The sequencer's steps (R37) -/

theorem receiveItem_of_pushed {it : SrcItem} {s : State} (hc : it.clean = true) (hl : s.length ≠ s.capacity) :
    receiveItem it s = { placeBack it.data s with
      phase := if stopCondition it.data (placeBack it.data s) then .pause else s.phase } := by
  rcases receiveItem_faults_or_pushes it s with ⟨hf, _⟩ | ⟨_, _, e⟩
  · rcases hf with dirty | isFull
    · cases hc.symm.trans dirty
    · exact absurd isFull hl
  · exact e

theorem sameReg_receiveItem {r : RegName} (hr : r ∉ seqMayWrite .byte) (it : SrcItem) (s : State) :
    sameReg r s (receiveItem it s) := by
  rcases receiveItem_faults_or_pushes it s with ⟨_, e⟩ | ⟨_, _, e⟩ <;> rw [e]
  all_goals
    cases r with
    | length | back | rxState | fault | phase => exact absurd (by decide) hr
    | _ => rfl

/-- What a sequencer step does not write. -/
theorem sameReg_seqStep {p : Phase} {r : RegName} (hr : r ∉ seqMayWrite p) (s : State) : sameReg r s (seqStep p s) := by
  have kept : sameReg r s s := by cases r <;> rfl
  cases p with
  | none => exact kept
  | resume =>
    change sameReg r s (seqResume s)
    rcases seqResume_cases s with ⟨_, e⟩ | ⟨_, e⟩ <;> rw [e]
    · exact kept
    · cases r with
      | phase => exact absurd (by decide) hr
      | _ => rfl
  | byte =>
    change sameReg r s (seqByte s)
    rcases seqByte_cases s with ⟨_, e⟩ | ⟨it, rest, _, e⟩ <;> rw [e]
    · exact kept
    · have received := sameReg_receiveItem hr it (srcTake rest s)
      cases r <;> exact received
  | pause =>
    change sameReg r s (seqPause s)
    rcases seqPause_cases s with ⟨_, e⟩ | ⟨_, e⟩ <;> rw [e]
    · exact kept
    · cases r with
      | rxState | phase => exact absurd (by decide) hr
      | _ => rfl

/-- The item taken, with another value in a register `SEQ_BYTE` does not look at. -/
theorem receiveItem_ignores {r : RegName} (hr : r ∉ seqMayRead .byte) (it : SrcItem) (o s : State) :
    Ignores r o (seqMayWrite .byte) (receiveItem it s) (receiveItem it (copyReg r o s)) := by
  have length : (copyReg r o s).length = s.length := sameReg_copyReg_of_mem hr (q := .length) (by decide) o s
  have capacity : (copyReg r o s).capacity = s.capacity := sameReg_copyReg_of_mem hr (q := .capacity) (by decide) o s
  rcases receiveItem_faults_or_pushes it s with ⟨hf, e⟩ | ⟨hc, hl, e⟩
  · rw [e, receiveItem_eq_raiseReceiveFault (by rw [length, capacity]; exact hf)]
    cases r with
    | rxState | fault | phase => exact .inr ⟨by decide, rfl⟩
    | _ => exact .inl rfl
  · rw [e, receiveItem_of_pushed hc (by rw [length, capacity]; exact hl)]
    cases r with
    | front | constructed | rxState | fault => exact .inl rfl
    | _ => exact absurd (by decide) hr

/-- What a sequencer step does not look at. -/
theorem seqStep_ignores {p : Phase} {r : RegName} (hr : r ∉ seqMayRead p) (s o : State) :
    Ignores r o (seqMayWrite p) (seqStep p s) (seqStep p (copyReg r o s)) := by
  cases p with
  | none => exact .inl rfl
  | resume =>
    change Ignores r o _ (seqResume s) (seqResume (copyReg r o s))
    rcases seqResume_cases s with ⟨ready, e⟩ | ⟨ready, e⟩ <;> rw [e]
    · exact .inl (seqResume_of_not_ready ((copyReg_sinkReady r o s).trans ready))
    · rw [seqResume_of_ready ((copyReg_sinkReady r o s).trans ready)]
      cases r with
      | phase => exact absurd (by decide) hr
      | _ => exact .inl rfl
  | byte =>
    change Ignores r o _ (seqByte s) (seqByte (copyReg r o s))
    rcases seqByte_cases s with ⟨source, e⟩ | ⟨it, rest, source, e⟩ <;> rw [e]
    · exact .inl (seqByte_nil ((copyReg_source r o s).trans source))
    · rw [seqByte_cons ((copyReg_source r o s).trans source)]
      have took : srcTake rest (copyReg r o s) = copyReg r o (srcTake rest s) := by cases r <;> rfl
      rw [took]
      exact receiveItem_ignores hr it o (srcTake rest s)
  | pause =>
    change Ignores r o _ (seqPause s) (seqPause (copyReg r o s))
    rcases seqPause_cases s with ⟨ready, e⟩ | ⟨ready, e⟩ <;> rw [e]
    · exact .inl (seqPause_of_not_ready ((copyReg_sinkReady r o s).trans ready))
    · rw [seqPause_of_ready ((copyReg_sinkReady r o s).trans ready)]
      cases r with
      | phase => exact absurd (by decide) hr
      | rxState => exact .inr ⟨by decide, rfl⟩
      | _ => exact .inl rfl

/-! ### Other items offered, another level of `snk_ready` -/

/-- `s` with other inputs on the source port and on `snk_ready`. -/
def mapInputs (items : List SrcItem → List SrcItem) (ready : Bool → Bool) (s : State) : State :=
  { s with source := items s.source, sinkReady := ready s.sinkReady }

/-- `f` on the next state of an outcome. -/
def mapNext (f : State → State) : Host.Outcome State Fault Refusal → Host.Outcome State Fault Refusal
  | .next s => .next (f s)
  | .fault r => .fault r
  | .refused r => .refused r

theorem transparent_mapInputs (items : List SrcItem → List SrcItem) (ready : Bool → Bool) :
    Transparent (mapInputs items ready) :=
  ⟨fun _ _ _ => rfl, fun _ _ => rfl⟩

section Inputs

variable (items : List SrcItem → List SrcItem) (ready : Bool → Bool)

/-- No command looks at SOURCE or SINK. -/
theorem exec_mapInputs (i : Instr) (s : State) :
    exec i (mapInputs items ready s) = mapNext (mapInputs items ready) (exec i s) := by
  have hf := transparent_mapInputs items ready
  cases i with
  | construct store capacity =>
    rcases execConstruct_cases store capacity s with ⟨rfl, e⟩ | ⟨hc, rfl, e⟩ | ⟨hc, hs, e⟩ <;>
      rw [exec_construct _ _ s, e]
    · exact exec_construct_of_zero_capacity store _
    · exact exec_construct_of_null_store hc _
    · exact exec_construct_of_legal hc hs _
  | pushBack d => exact congrArg Host.Outcome.next (pushChecked_comm hf rfl rfl rfl rfl)
  | pushFront d => exact congrArg Host.Outcome.next (pushChecked_comm hf rfl rfl rfl rfl)
  | popBack => exact congrArg Host.Outcome.next (takeChecked_comm hf rfl rfl rfl)
  | popFront => exact congrArg Host.Outcome.next (takeChecked_comm hf rfl rfl rfl)
  | isFull => exact congrArg Host.Outcome.next (answerChecked_comm hf rfl _)
  | isEmpty => exact congrArg Host.Outcome.next (answerChecked_comm hf rfl _)
  | peekFront => exact congrArg Host.Outcome.next (takeChecked_comm hf rfl rfl rfl)
  | peekBack => exact congrArg Host.Outcome.next (takeChecked_comm hf rfl rfl rfl)
  | rxConfig threshold delim => rfl
  | rxStart =>
    rcases execRxStart_cases s with ⟨hc, e⟩ | ⟨hc, hh, e⟩ | ⟨hc, hh, ht, e⟩ | ⟨hc, hh, ht, e⟩ <;> rw [exec_rxStart s, e]
    · exact exec_rxStart_of_not_constructed hc
    · exact exec_rxStart_of_halted hc hh
    · exact exec_rxStart_of_badThreshold hc hh ht
    · exact exec_rxStart_of_accepted (s := mapInputs items ready s) hc hh ht
  | rdreg n =>
    have found : regRead n (mapInputs items ready s) = regRead n s := rfl
    cases hv : regRead n s with
    | none => rw [exec_rdreg_of_none hv, exec_rdreg_of_none (found.trans hv)]; rfl
    | some v => rw [exec_rdreg_of_some hv, exec_rdreg_of_some (found.trans hv)]; rfl

theorem takeCommand_mapInputs (s : State) :
    takeCommand (mapInputs items ready s) = mapNext (mapInputs items ready) (takeCommand s) := by
  rcases takeCommand_cases s with ⟨hw, e⟩ | ⟨w, rest, hw, e⟩ <;> rw [e]
  · exact takeCommand_nil hw
  · rw [takeCommand_cons (s := mapInputs items ready s) hw]
    rcases execWord_cases w { s with commands := rest } with ⟨i, hd, e⟩ | ⟨why, hd, e⟩ <;> rw [e]
    · exact (execWord_of_legal hd _).trans (exec_mapInputs items ready i { s with commands := rest })
    · exact execWord_of_illegal hd _

/-- Outside `PH_BYTE` the block does not look at the items SOURCE offers. -/
theorem blockStep_mapSource {s : State} (h : srcReady s = false) :
    blockStep (mapInputs items id s) = mapNext (mapInputs items id) (blockStep s) := by
  rcases blockStep_cases s with ⟨hr, e⟩ | ⟨hr, hp, e⟩ | ⟨hr, hp, e⟩ | ⟨hr, hp, _⟩ | ⟨hr, hp, e⟩
  · rw [e]
    exact blockStep_of_rst (s := mapInputs items id s) hr
  · rw [e]
    exact (blockStep_of_phase_none (s := mapInputs items id s) hr hp).trans (takeCommand_mapInputs items id s)
  · rw [e]
    refine (blockStep_of_phase_resume (s := mapInputs items id s) hr hp).trans (congrArg _ ?_)
    rcases seqResume_cases s with ⟨ready, e⟩ | ⟨ready, e⟩ <;> rw [e]
    · exact seqResume_of_not_ready (s := mapInputs items id s) ready
    · exact seqResume_of_ready (s := mapInputs items id s) ready
  · simp [srcReady, hr, hp] at h
  · rw [e]
    refine (blockStep_of_phase_pause (s := mapInputs items id s) hr hp).trans (congrArg _ ?_)
    rcases seqPause_cases s with ⟨ready, e⟩ | ⟨ready, e⟩ <;> rw [e]
    · exact seqPause_of_not_ready (s := mapInputs items id s) ready
    · exact seqPause_of_ready (s := mapInputs items id s) ready

theorem receiveItem_mapSinkReady (it : SrcItem) (s : State) :
    receiveItem it (mapInputs id ready s) = mapInputs id ready (receiveItem it s) := by
  rcases receiveItem_faults_or_pushes it s with ⟨hf, e⟩ | ⟨hc, hl, e⟩ <;> rw [e]
  · exact receiveItem_eq_raiseReceiveFault (s := mapInputs id ready s) hf
  · exact receiveItem_of_pushed (s := mapInputs id ready s) hc hl

/-- Outside `PH_RESUME` and `PH_PAUSE` the block does not look at `snk_ready`. -/
theorem blockStep_mapSinkReady {s : State} (h : snkValid s = false) :
    blockStep (mapInputs id ready s) = mapNext (mapInputs id ready) (blockStep s) := by
  rcases blockStep_cases s with ⟨hr, e⟩ | ⟨hr, hp, e⟩ | ⟨hr, hp, _⟩ | ⟨hr, hp, e⟩ | ⟨hr, hp, _⟩
  · rw [e]
    exact blockStep_of_rst (s := mapInputs id ready s) hr
  · rw [e]
    exact (blockStep_of_phase_none (s := mapInputs id ready s) hr hp).trans (takeCommand_mapInputs id ready s)
  · simp [snkValid, hr, hp] at h
  · rw [e]
    refine (blockStep_of_phase_byte (s := mapInputs id ready s) hr hp).trans (congrArg _ ?_)
    rcases seqByte_cases s with ⟨source, e⟩ | ⟨it, rest, source, e⟩ <;> rw [e]
    · exact seqByte_nil (s := mapInputs id ready s) source
    · exact (seqByte_cons (s := mapInputs id ready s) source).trans (receiveItem_mapSinkReady ready it (srcTake rest s))
  · simp [snkValid, hr, hp] at h

end Inputs

/-! ### What a clock edge leaves of the inputs -/

theorem source_of_clockEdge {s t : State} (hd : StepDoes s t) (edge : clockEdge s = true) (h : srcReady s = false) :
    t.source = s.source := by
  cases hd with
  | environment m rest hm hc no => cases no.symm.trans edge
  | command i _ _ _ he => exact (sameStreams_of_execDoes (exec_does he)).source
  | byte it rest hp _ => simp [srcReady, hp.phase, hp.rst] at h
  | reset _ _ | wait _ _ _ | illegal _ _ _ _ _ _ | resume _ _ | pause _ _ => rfl

theorem sinkReady_of_clockEdge {s t : State} (hd : StepDoes s t) (edge : clockEdge s = true) :
    t.sinkReady = s.sinkReady := by
  cases hd with
  | environment m rest hm hc no => cases no.symm.trans edge
  | command i _ _ _ he => exact (sameEnvironment_of_execDoes (exec_does he)).sinkReady
  | byte it rest _ _ => exact (sameEnvironment_receiveItem it _).sinkReady
  | reset _ _ | wait _ _ _ | illegal _ _ _ _ _ _ | resume _ _ | pause _ _ => rfl

end Sys2Proof.Machine

namespace Sys2Proof.Proofs

open Sys2Proof Sys2Proof.Machine

/-- Settles O21: by what each command and each sequencer step does not write and does not look at. -/
theorem registersAreAccessedOnlyAsTheTableSays : Obligations.RegistersAreAccessedOnlyAsTheTableSays := by
  refine ⟨fun i s t r h hr => sameReg_of_execDoes (exec_does h) hr, fun p s r hr => sameReg_seqStep hr s,
    fun s r edge rst => ⟨_, step_of_rst edge rst, ?reset⟩, fun i s o t r hr h => ?command,
    fun p s o r hr => seqStep_ignores hr s o⟩
  case reset => cases r <;> rfl
  case command =>
    obtain ⟨t', h', rfl | ⟨written, rfl⟩⟩ := exec_ignores o hr h
    · exact .inl h'
    · exact .inr ⟨written, h'⟩

/-- Settles O27: at a clock edge the step is the block's, which goes through a change of the inputs it does not look
at. -/
theorem inputsAreLookedAtOnlyInTheirPhases : Obligations.InputsAreLookedAtOnlyInTheirPhases := by
  refine ⟨fun s t items edge hr h => ⟨source_of_clockEdge (step_does h) edge hr, ?items⟩,
    fun s t ready edge hv h => ⟨sinkReady_of_clockEdge (step_does h) edge, ?ready⟩⟩
  case items =>
    have unseen := blockStep_mapSource (fun _ => items) (s := { s with moves := s.moves.tail }) hr
    rw [← step_edge edge, h] at unseen
    exact (step_edge (s := { s with source := items }) edge).trans unseen
  case ready =>
    have unseen := blockStep_mapSinkReady (fun _ => ready) (s := { s with moves := s.moves.tail }) hv
    rw [← step_edge edge, h] at unseen
    exact (step_edge (s := { s with sinkReady := ready }) edge).trans unseen

end Sys2Proof.Proofs
end
